-- ==== Sys2Proof/Word.lean ====
section
/-! DEFINITION. The bit-string types of the block: the operation word (R95), the digit (R31, R91), the two ROM entries (R92, R93). -/

namespace Sys2Proof

/-- OPWORD, the 8-bit operation word (30_encoding R95); bit 0 is the least significant (R19). -/
abbrev Word := BitVec 8

/-- A 4-bit unsigned digit or ROM address (10_state R31, 30_encoding R91). -/
abbrev Digit := BitVec 4

/-- GPIOWORD: a ROM_GPIO entry, and the 16-bit image of the segment port (30_encoding R92, 10_state R39). -/
abbrev PortWord := BitVec 16

/-- SRWORD and FRAME: a ROM_SR entry, the byte sent, a stage of the shift register (30_encoding R93, R94). -/
abbrev SrWord := BitVec 8

end Sys2Proof
end

