-- ==== Sys2Proof/Syntax.lean ====
section
/-! DEFINITION. The operations of the block, one constructor per row of spec/opcode_table.json (30_encoding R96). -/

namespace Sys2Proof

/-- One operation. The digit operand of the last three test-port rows is a 4-bit unsigned value, every value of
which is a spelling of the operation (R98, R101); no other operation has an operand. -/
inductive Instr where
  /-- Power-on or system reset (R260). -/
  | reset
  /-- The millisecond counter advances by one (R203). -/
  | tick
  /-- A falling edge on the increment line (R200). -/
  | edgeInc
  /-- A falling edge on the decrement line (R201). -/
  | edgeDec
  /-- The increment handler (R141). -/
  | isrInc
  /-- The decrement handler (R147). -/
  | isrDec
  /-- Read entry `d` of the direct-GPIO ROM (R124). -/
  | romGpio (d : Digit)
  /-- Read entry `d` of the shift-register ROM (R127). -/
  | romSr (d : Digit)
  /-- Drive the segment lines with the entry for `d` (R171). -/
  | presentDirect (d : Digit)
  /-- Start a refresh (R175). -/
  | srSample
  /-- Shift the next bit out (R177). -/
  | srShift
  /-- Raise the latch line and commit (R180). -/
  | latchSet
  /-- Lower the latch line and end the refresh (R182). -/
  | latchClear
  deriving DecidableEq, Repr

end Sys2Proof
end

