-- ==== Sys2Proof/Decode.lean ====
section
/-! DEFINITION. The decoder of operation words (30_encoding R95, R97, R98, R100) and the encoder written from the same map (R96). -/

namespace Sys2Proof

/-- Why the decoder answers no operation. -/
inductive Rejected where
  /-- One of the 198 words outside the operation map (R100). -/
  | reservedWord
  deriving DecidableEq, Repr

/-- The operation code `op = w[7:4]` (R95). -/
def opField (w : Word) : BitVec 4 := w.extractLsb' 4 4

/-- The operand field `arg = w[3:0]` (R95). -/
def argField (w : Word) : Digit := w.extractLsb' 0 4

/-- An operation whose operand field must be zero (R95, R97). -/
def mustBeZero (arg : Digit) (i : Instr) : Except Rejected Instr :=
  if arg = 0#4 then .ok i else .error .reservedWord

/-- The line selector of EDGE and ISR: 0 is the increment line, 1 the decrement line, `w[3:1] = 0` required (R95, R98). -/
def lineSelect (arg : Digit) (inc dec : Instr) : Except Rejected Instr :=
  if arg = 0#4 then .ok inc else if arg = 1#4 then .ok dec else .error .reservedWord

/-- `decode(w)`, in the order of R97: a function of the word alone, total on all 256 words. -/
def decode (w : Word) : Except Rejected Instr :=
  match (opField w).toNat with
  | 0x0 => mustBeZero (argField w) .reset
  | 0x1 => mustBeZero (argField w) .tick
  | 0x2 => lineSelect (argField w) .edgeInc .edgeDec
  | 0x3 => lineSelect (argField w) .isrInc .isrDec
  | 0x4 => .ok (.romGpio (argField w))
  | 0x5 => .ok (.romSr (argField w))
  | 0x6 => .ok (.presentDirect (argField w))
  | 0x7 => mustBeZero (argField w) .srSample
  | 0x8 => mustBeZero (argField w) .srShift
  | 0x9 => mustBeZero (argField w) .latchSet
  | 0xA => mustBeZero (argField w) .latchClear
  | _ => .error .reservedWord

/-- The operation code of each row of R96. -/
def Instr.opcode : Instr → BitVec 4
  | .reset => 0x0#4
  | .tick => 0x1#4
  | .edgeInc => 0x2#4
  | .edgeDec => 0x2#4
  | .isrInc => 0x3#4
  | .isrDec => 0x3#4
  | .romGpio _ => 0x4#4
  | .romSr _ => 0x5#4
  | .presentDirect _ => 0x6#4
  | .srSample => 0x7#4
  | .srShift => 0x8#4
  | .latchSet => 0x9#4
  | .latchClear => 0xA#4

/-- The operand field of each row of R96: a digit, a line selector, or zero (R95). -/
def Instr.argument : Instr → BitVec 4
  | .reset => 0#4
  | .tick => 0#4
  | .edgeInc => 0#4
  | .edgeDec => 1#4
  | .isrInc => 0#4
  | .isrDec => 1#4
  | .romGpio d => d
  | .romSr d => d
  | .presentDirect d => d
  | .srSample => 0#4
  | .srShift => 0#4
  | .latchSet => 0#4
  | .latchClear => 0#4

/-- The one operation word of an operation: `op` above `arg` (R95, R96). -/
def encode (i : Instr) : Word := i.opcode ++ i.argument

/-- The operation an opcode-table row's bits stand for: every operation is exactly one 8-bit word (R99), so a row of any
other width is no operation of this block. -/
def decodeTableWord (nbits w : Nat) : Option Instr :=
  if nbits = 8 then
    match decode (BitVec.ofNat 8 w) with
    | .ok i => some i
    | .error _ => none
  else none

end Sys2Proof
end

