-- ==== Sys2Proof/Config.lean ====
section
/-! DEFINITION. The parameters of an implementation (00_scope R7-R15) as plain data, the constants the spec fixes, and the free
values: constants without a body, of which nothing can be proved (R39, R41, R43, R44, R206). -/

namespace Sys2Proof

/-- The segments of the display, a to g and the decimal point (00_scope R24). -/
inductive Segment where
  | a | b | c | d | e | f | g | dp
  deriving DecidableEq, Repr

/-- All eight segments. -/
def Segment.all : List Segment := [.a, .b, .c, .d, .e, .f, .g, .dp]

/-- The seven strokes without the decimal point. -/
def Segment.strokes : List Segment := [.a, .b, .c, .d, .e, .f, .g]

/-- A map from segment to a bit position below `n`: SEG_PIN has `n = 16` (R12), SEG_QBIT has `n = 8` (R13). -/
structure SegMap (n : Nat) where
  a : Fin n
  b : Fin n
  c : Fin n
  d : Fin n
  e : Fin n
  f : Fin n
  g : Fin n
  dp : Fin n
  deriving DecidableEq, Repr

/-- The bit position of a segment. -/
def SegMap.pos {n : Nat} (m : SegMap n) : Segment → Nat
  | .a => m.a
  | .b => m.b
  | .c => m.c
  | .d => m.d
  | .e => m.e
  | .f => m.f
  | .g => m.g
  | .dp => m.dp

/-- The parameters a model takes (00_scope R8-R13, R15; the rows of 92_eei_decisions marked OPEN). VARIANT (R3) is not
among them: the constructor of a state's output stage says it (R30). -/
structure Config where
  /-- W_TICK: the width in bits of the millisecond counter and of the two timestamps (R9; 92_eei_decisions D2). As the width is
  the instance's own, no type fixes it: a tick value is a natural number that the arithmetic of Machine/Flags.lean keeps below
  2^W_TICK (R20); log 3. -/
  tickWidth : Nat
  /-- DP_PRESENT: the display has a decimal point (R10). -/
  dpPresent : Bool
  /-- FONT: the segments lit for each digit 0..9 (R11). -/
  font : Vector (List Segment) 10
  /-- SEG_PIN: the bit of a segment's line in the 16-bit port word (R12). -/
  segPin : SegMap 16
  /-- SEG_QBIT: the bit of a segment in the 8-bit shift-register word (R13). -/
  segQbit : SegMap 8
  /-- REFRESH_PERIOD_MS: no transition depends on it (R8). -/
  refreshPeriodMs : Nat
  /-- IRQ_PRIO_INC: no rule depends on it (R15). -/
  irqPrioInc : Nat
  /-- IRQ_PRIO_DEC: no rule depends on it (R15). -/
  irqPrioDec : Nat
  deriving DecidableEq, Repr

/-- FONT(d); a digit above 9 has no entry (R11, R70), and no ROM read gets as far as asking (R71). -/
def Config.fontAt (c : Config) (d : Digit) : List Segment :=
  if h : d.toNat < 10 then c.font[d.toNat] else []

/-- The segments the display has: N_SEG of them (R10, R55). -/
def Config.segments (c : Config) : List Segment :=
  if c.dpPresent then Segment.all else Segment.strokes

/-- GUARD_MS, the guard interval of both buttons in milliseconds (00_scope R7). -/
def Config.guardMs : Nat := 200

/-- Free value: the port image drawn by the nth draw (R39, R260); log 4. -/
opaque Config.freeSegOut : Nat → PortWord

/-- Free value: the shift stage drawn by the nth draw (R43, R260); log 4. -/
opaque Config.freeSrShift : Nat → SrWord

/-- Free value: the storage stage drawn by the nth draw (R44, R260); log 4. -/
opaque Config.freeSrStore : Nat → SrWord

/-- Free value: the byte a serializer would send that never sampled one (R41: never read in a run); log 9. -/
opaque Config.freeSerByte : Nat → SrWord

/-- Free value: which enabled operation the scheduler takes at the nth draw, counted modulo their number (R206); log 6. -/
opaque Config.freeChoice : Nat → Nat

end Sys2Proof
end

