-- ==== Sys2Proof/Machine/Reference.lean ====
section
/-! DEFINITION. The reference values of the parameters (00_scope R8-R13; 40_encoder R121). -/

namespace Sys2Proof.Machine

/-- The reference FONT (40_encoder R121). -/
def referenceFont : Vector (List Segment) 10 :=
  #v[[.a, .b, .c, .d, .e, .f],
     [.b, .c],
     [.a, .b, .d, .e, .g],
     [.a, .b, .c, .d, .g],
     [.b, .c, .f, .g],
     [.a, .c, .d, .f, .g],
     [.a, .c, .d, .e, .f, .g],
     [.a, .b, .c],
     [.a, .b, .c, .d, .e, .f, .g],
     [.a, .b, .c, .d, .f, .g]]

/-- The reference SEG_PIN: a to g on bits 8 to 14, dp on bit 15 (R12). -/
def referenceSegPin : SegMap 16 := { a := 8, b := 9, c := 10, d := 11, e := 12, f := 13, g := 14, dp := 15 }

/-- The reference SEG_QBIT: b, c, d, e, f, g, a on QA to QG, dp on QH (R13). -/
def referenceSegQbit : SegMap 8 := { a := 6, b := 0, c := 1, d := 2, e := 3, f := 4, g := 5, dp := 7 }

/-- The reference values of all parameters. DESIGN CHOICE (log 2): the source gives the priorities no value; 0 stands for
both, and no rule depends on them (R15). -/
def referenceConfig : Config where
  tickWidth := 32
  dpPresent := false
  font := referenceFont
  segPin := referenceSegPin
  segQbit := referenceSegQbit
  refreshPeriodMs := 100
  irqPrioInc := 0
  irqPrioDec := 0

end Sys2Proof.Machine
end

