-- ==== Sys2Proof/Machine/State.lean ====
section
/-! DEFINITION. The state of the block (10_state R30), the reasons a step can stop, and the state after power-on (R261).
Where the source is silent the rules carry the spec's own decisions (log 13). -/

namespace Sys2Proof.Machine

/-- The two buttons, the source's ButtonEvent (00_scope R25). -/
inductive Button where
  /-- The increment button (R229). -/
  | inc
  /-- The decrement button (R229). -/
  | dec
  deriving DecidableEq, Repr

/-- VARIANT, the output stage an instance has (00_scope R3). -/
inductive Variant where
  /-- The Direct-Line Driver. -/
  | direct
  /-- The Serial-Shift Driver. -/
  | serial
  deriving DecidableEq, Repr

/-- `ser_phase` (10_state R40). -/
inductive SerPhase where
  /-- No refresh in progress. -/
  | idle
  /-- A byte has been sampled and `ser_count` of its bits have been shifted. -/
  | shift
  /-- The latch line is high. -/
  | latchHigh
  deriving DecidableEq, Repr

/-- The state elements marked SERIAL (10_state R40-R45). -/
structure Serial where
  /-- `ser_phase` (R40). -/
  phase : SerPhase
  /-- `ser_byte`, which holds no value after reset (R41); log 10. -/
  byte : Option SrWord
  /-- `ser_count`, 0..8 (R42). -/
  count : Fin 9
  /-- `sr_shift`, bit 0 being the stage that receives the serial input (R43). -/
  shiftStage : SrWord
  /-- `sr_store`, bit 0 driving QA (R44). -/
  store : SrWord
  /-- `latch_line` (R45). -/
  latchLine : Bool
  deriving DecidableEq, Repr

/-- The output stage: the elements marked DIRECT exist only in variant DIRECT, those marked SERIAL only in variant SERIAL
(10_state R30), so the constructor is the instance's VARIANT. -/
inductive OutputStage where
  /-- Variant DIRECT: `seg_out` (R39); log 12 for its bits outside SEG_LINE_MASK. -/
  | direct (segOut : PortWord)
  /-- Variant SERIAL: the serializer and the shift register (R40-R45). -/
  | serial (ser : Serial)
  deriving DecidableEq, Repr

/-- One entry of the `fault` set: a code with its info (60_exceptions R221-R224). -/
inductive FaultRecord where
  /-- F_RANGE, info the operand (R222). -/
  | range (d : Digit)
  /-- F_VARIANT, info the operation word (R223). -/
  | variant (w : Word)
  /-- F_SEQ of a handler, info the word with its pending flag (R224). -/
  | seqHandler (w : Word) (pending : Bool)
  /-- F_SEQ of a serializer operation, info the word with `ser_phase` and `ser_count` (R224). -/
  | seqSerializer (w : Word) (phase : SerPhase) (count : Fin 9)
  deriving DecidableEq, Repr

/-- The block's state: the elements of 10_state's summary table (R30), and after them the model's own three fields. -/
structure State where
  /-- `digit` (R31). -/
  digit : Digit
  /-- `last_inc`, W_TICK bits (R33); log 3. -/
  lastInc : Nat
  /-- `last_dec`, W_TICK bits (R34); log 3. -/
  lastDec : Nat
  /-- `now_ms`, W_TICK bits (R36); log 3. -/
  nowMs : Nat
  /-- `pend_inc` (R38). -/
  pendInc : Bool
  /-- `pend_dec` (R38). -/
  pendDec : Bool
  /-- The output stage of the instance's variant (R39-R45). -/
  out : OutputStage
  /-- `rom_q`, none or a 16-bit value (R46); log 10. -/
  romQ : Option (BitVec 16)
  /-- `fault`, a set kept as a list without repeats, in the order recorded (R47). -/
  fault : List FaultRecord
  /-- `refused` (R48). -/
  refused : Bool
  /-- The model's own: the parameters of this instance, which no operation writes (R30); log 1. -/
  cfg : Config
  /-- The model's own: the words of the program stream not yet executed (R106, R208); log 5. -/
  stream : List Word
  /-- The model's own: how many free values have been taken; log 4. -/
  draws : Nat
  deriving DecidableEq, Repr

/-- Reasons the machine has no step. -/
inductive Fault where
  /-- `fault` is not empty: the state is quiescent and final (R221). Raised by every operation; safe. -/
  | faulted
  /-- `refused` is 1: the state is quiescent and final (R225). Raised by every operation; safe. -/
  | refusedBefore
  deriving DecidableEq, Repr

/-- Reasons a word has no meaning in the model. -/
inductive Refusal where
  /-- An instruction without a meaning yet, rejected in its arm of exec: no arm is; safe. -/
  | notModelled (mnemonic : String)
  deriving DecidableEq, Repr

/-- The output stage right after power-on: the phase machine idle, the levels the spec leaves open drawn (R260, R261). -/
def OutputStage.powerOn : Variant → OutputStage
  | .direct => .direct (Config.freeSegOut 0)
  | .serial => .serial
      { phase := .idle, byte := none, count := 0, shiftStage := Config.freeSrShift 0, store := Config.freeSrStore 0,
        latchLine := false }

/-- The first state of a run of an instance with variant `v` and parameters `c` (R260, R261), with no program loaded. -/
def State.powerOn (v : Variant) (c : Config) : State where
  digit := 0#4
  lastInc := 0
  lastDec := 0
  nowMs := 0
  pendInc := false
  pendDec := false
  out := OutputStage.powerOn v
  romQ := none
  fault := []
  refused := false
  cfg := c
  stream := []
  draws := 1

/-- The machine right after reset (R261), for the reference parameters. DESIGN CHOICE (log 2): of the two variants the
instance at reset is SERIAL. -/
def State.reset : State := State.powerOn .serial referenceConfig

end Sys2Proof.Machine
end

