-- ==== Sys2Proof/Machine/Ops.lean ====
section
/-! DEFINITION. The shared operations every meaning is built from: quiescence and the fault record (60_exceptions R221-R225),
the enabling condition and the variant check in their order (43_inputs R209), the draw of a free value. -/

namespace Sys2Proof.Machine

/-- What a step answers. -/
abbrev StepResult := Host.Outcome State Fault Refusal

/-- A fault-free, unrefused state, the only kind an operation has a step from (43_inputs R206). -/
abbrev State.Live (s : State) : Prop := s.fault = [] ∧ s.refused = false

/-- Every operation: in a quiescent state it has no step (R206, R221, R225). -/
def whenLive (s : State) (r : StepResult) : StepResult :=
  if s.fault ≠ [] then .fault .faulted
  else if s.refused = true then .fault .refusedBefore
  else r

/-- The fault code of an entry of `fault` (R222-R224). -/
def FaultRecord.code : FaultRecord → Nat
  | .range _ => 1
  | .variant _ => 2
  | .seqHandler _ _ => 3
  | .seqSerializer _ _ _ => 3

/-- A record added to the set (R47). -/
def insertRecord (r : FaultRecord) (l : List FaultRecord) : List FaultRecord :=
  if r ∈ l then l else l ++ [r]

/-- The state with one more record in `fault` and nothing else changed (R221). -/
def State.addFault (s : State) (r : FaultRecord) : State := { s with fault := insertRecord r s.fault }

/-- `raise Fault(code)(info)`: a next state that holds the record; no operation has a step from it (R221); log 7. -/
def raiseFault (r : FaultRecord) (s : State) : StepResult := .next (s.addFault r)

/-- The state with `refused` set and nothing else changed (R225). -/
def State.setRefused (s : State) : State := { s with refused := true }

/-- `refuse(RESERVED_WORD)`: the step of a reserved word (R100, R225); log 8. -/
def refuseWord (s : State) : StepResult := whenLive s (.next s.setRefused)

/-- `requires p`, for a word of a program stream: else the record of F_SEQ (R208, R224). -/
def requires (p : Bool) (r : FaultRecord) (s : State) (body : StepResult) : StepResult :=
  if p then body else raiseFault r s

/-- The instance's VARIANT (R3), read off its output stage. -/
def State.variant (s : State) : Variant :=
  match s.out with
  | .direct _ => .direct
  | .serial _ => .serial

/-- The state with another output stage. -/
def State.setOut (s : State) (o : OutputStage) : State := { s with out := o }

/-- The variant check of an operation of variant DIRECT, given its word (R102, R223). -/
def onDirect (w : Word) (s : State) (body : PortWord → StepResult) : StepResult :=
  match s.out with
  | .direct seg => body seg
  | .serial _ => raiseFault (.variant w) s

/-- The variant check of an operation of variant SERIAL, given its word (R102, R223). -/
def onSerial (w : Word) (s : State) (body : Serial → StepResult) : StepResult :=
  match s.out with
  | .serial ser => body ser
  | .direct _ => raiseFault (.variant w) s

/-- The state after one more free value was taken; log 4. -/
def State.tookDraw (s : State) : State := { s with draws := s.draws + 1 }

/-- The operation of variant SERIAL with this word, whose enabling condition on the serializer is `p` and whose effect on it
is `f`: the check order of R209. -/
def serializerOp (w : Word) (s : State) (p : Serial → Bool) (f : Serial → Serial) : StepResult :=
  whenLive s (onSerial w s fun ser =>
    requires (p ser) (.seqSerializer w ser.phase ser.count) s (.next (s.setOut (.serial (f ser)))))

end Sys2Proof.Machine
end

