-- ==== Sys2Proof/WellFormed.lean ====
section
/-! DEFINITION. Which instructions are in the contract of their operation (R101) and which parameter values are admissible
(00_scope R11-R13). -/

namespace Sys2Proof

/-- The digit operand of an operation that has one (R95, R98). -/
def Instr.digitOperand : Instr → Option Digit
  | .romGpio d => some d
  | .romSr d => some d
  | .presentDirect d => some d
  | .reset => none
  | .tick => none
  | .edgeInc => none
  | .edgeDec => none
  | .isrInc => none
  | .isrDec => none
  | .srSample => none
  | .srShift => none
  | .latchSet => none
  | .latchClear => none

/-- The operation meets the source's precondition: its digit operand, where it has one, is in 0..9. A term that does not is
still a well-formed spelling of an operation word, whose execution raises F_RANGE (R101, R222). Every term of `Instr` has a
word, so no other check on an instruction exists (R98: a 4-bit operand is any 4-bit value). -/
def Instr.inDomain (i : Instr) : Bool :=
  match i.digitOperand with
  | some d => d.toNat ≤ 9
  | none => true

/-- The entries of FONT are sets of a..g: no decimal point and no segment twice (R11, R122). -/
abbrev Config.FontIsOfStrokes (c : Config) : Prop :=
  ∀ l ∈ c.font.toList, Segment.dp ∉ l ∧ l.Nodup

/-- FONT(1) = {b, c} (R11). -/
abbrev Config.FontOneIsBC (c : Config) : Prop :=
  ∀ s ∈ Segment.all, s ∈ c.fontAt 1#4 ↔ (s = .b ∨ s = .c)

/-- A segment map is injective (R12; for SEG_QBIT onto 0..7 that is a bijection, R13). -/
abbrev SegMap.Injective {n : Nat} (m : SegMap n) : Prop :=
  (Segment.all.map m.pos).Nodup

/-- {SEG_PIN(b), SEG_PIN(c)} = {9, 10} (R12). -/
abbrev Config.PinsOfBC (c : Config) : Prop :=
  (c.segPin.b.val = 9 ∧ c.segPin.c.val = 10) ∨ (c.segPin.b.val = 10 ∧ c.segPin.c.val = 9)

/-- {SEG_QBIT(b), SEG_QBIT(c)} = {0, 1} (R13). -/
abbrev Config.QbitsOfBC (c : Config) : Prop :=
  (c.segQbit.b.val = 0 ∧ c.segQbit.c.val = 1) ∨ (c.segQbit.b.val = 1 ∧ c.segQbit.c.val = 0)

/-- The parameter values of an instance of this block: every constraint the rules R11, R12 and R13 state. -/
structure Config.WellFormed (c : Config) : Prop where
  fontIsOfStrokes : c.FontIsOfStrokes
  fontOneIsBC : c.FontOneIsBC
  pinsInjective : c.segPin.Injective
  pinsOfBC : c.PinsOfBC
  qbitsInjective : c.segQbit.Injective
  qbitsOfBC : c.QbitsOfBC

end Sys2Proof
end

