-- ==== Sys2Proof/Machine/Operands.lean ====
section
/-! DEFINITION. The one operand form that has a value, the digit, and what it addresses: the two ROMs derived from the
parameters (00_scope R14), and RomRead (20_memory R71). -/

namespace Sys2Proof.Machine

/-- OR of `1 << i` over the listed bit positions (R14). -/
def orOfBits (w : Nat) (is : List Nat) : BitVec w :=
  is.foldl (fun acc i => acc ||| (1#w <<< i)) 0#w

/-- `ROM_GPIO[d]` (R14). -/
def romGpioEntry (c : Config) (d : Digit) : PortWord := orOfBits 16 ((c.fontAt d).map c.segPin.pos)

/-- `ROM_SR[d]` (R14). -/
def romSrEntry (c : Config) (d : Digit) : SrWord := orOfBits 8 ((c.fontAt d).map c.segQbit.pos)

/-- SEG_LINE_MASK: the lines of the segments the display has (R12). -/
def segLineMask (c : Config) : PortWord := orOfBits 16 (c.segments.map c.segPin.pos)

/-- `RomRead(T, d)`: the whole entry, or the record of F_RANGE for an address that is not mapped (R70, R71);
the ROMs are the only memory, log 18. -/
def romRead {w : Nat} (table : Digit → BitVec w) (d : Digit) : Except FaultRecord (BitVec w) :=
  if d.toNat > 9 then .error (.range d) else .ok (table d)

/-- What an operation does with a ROM read: raise its fault, which discards the operation's other writes (R21, R71), or go on
with the value read. -/
def withRead {w : Nat} (r : Except FaultRecord (BitVec w)) (s : State) (k : BitVec w → State) : StepResult :=
  match r with
  | .error e => raiseFault e s
  | .ok v => .next (k v)

/-- The batched write of all segment lines: the bits outside SEG_LINE_MASK keep their value (R171, R172). -/
def driveLines (c : Config) (seg m : PortWord) : PortWord := (seg &&& ~~~ segLineMask c) ||| m

end Sys2Proof.Machine
end

