-- ==== Sys2Proof/Machine/Flags.lean ====
section
/-! DEFINITION. The block has no status flags (10_state R50). Its one-bit conditions are computed here: the pending flags (R38),
the arithmetic of the tick (00_scope R20), the guard comparison (41_debounce R141, R143) and the clamp of the digit (R142, R148). -/

namespace Sys2Proof.Machine

/-- The pending flag of a button (R38). -/
def State.pending (s : State) : Button → Bool
  | .inc => s.pendInc
  | .dec => s.pendDec

/-- The state with a button's pending flag at `v` (R38). -/
def State.setPending (s : State) (b : Button) (v : Bool) : State :=
  match b with
  | .inc => { s with pendInc := v }
  | .dec => { s with pendDec := v }

/-- A button's half of the DebounceWindow (R33, R34, R53). -/
def State.last (s : State) : Button → Nat
  | .inc => s.lastInc
  | .dec => s.lastDec

/-- The state with a button's timestamp at `t` (R33, R34). -/
def State.setLast (s : State) (b : Button) (t : Nat) : State :=
  match b with
  | .inc => { s with lastInc := t }
  | .dec => { s with lastDec := t }

/-- The state with another digit (R31). -/
def State.setDigit (s : State) (d : Digit) : State := { s with digit := d }

/-- 2^W_TICK, the modulus of the arithmetic of the tick (R9, R20). -/
def tickModulus (c : Config) : Nat := 2 ^ c.tickWidth

/-- `a +_W b`, W being W_TICK (R20). -/
def tickAdd (c : Config) (a b : Nat) : Nat := (a + b) % tickModulus c

/-- `a -_W b`, W being W_TICK: the exact difference, brought into 0..2^W - 1 (R20, R146). -/
def tickSub (c : Config) (a b : Nat) : Nat := (((a : Int) - b) % tickModulus c).toNat

/-- `now_ms -_W last`: the milliseconds since the last accepted event of button `b`, modulo 2^W_TICK (R141, R146, R147). -/
def State.sinceLast (s : State) (b : Button) : Nat := tickSub s.cfg s.nowMs (s.last b)

/-- `(now_ms -_W last) >= GUARD_MS`: the handler of button `b`, run now, accepts the event (R141, R147). -/
def State.accepts (s : State) (b : Button) : Bool := decide (Config.guardMs ≤ s.sinceLast b)

/-- The digit after an accepted event: one up below 9, one down above 0, else kept (R141, R142, R147, R148). -/
def stepDigit : Button → Digit → Digit
  | .inc, d => if d.toNat < 9 then d + 1#4 else d
  | .dec, d => if d.toNat > 0 then d - 1#4 else d

end Sys2Proof.Machine
end

