-- ==== Sys2Proof/Machine/Encoder.lean ====
section
/-! DEFINITION. The Segment Encoder: the two stand-alone ROM reads (40_encoder R124, R127) and `encode` (R120). -/

namespace Sys2Proof.Machine

/-- The state with a value on the ROM's read-data port (10_state R46). -/
def State.setRomQ (s : State) (v : BitVec 16) : State := { s with romQ := some v }

/-- ROM_GPIO d (R124). -/
def execRomGpio (d : Digit) (s : State) : StepResult :=
  whenLive s (withRead (romRead (romGpioEntry s.cfg) d) s s.setRomQ)

/-- ROM_SR d: the 8-bit entry observed zero-extended (R127). -/
def execRomSr (d : Digit) (s : State) : StepResult :=
  whenLive s (withRead (romRead (romSrEntry s.cfg) d) s fun v => s.setRomQ (v.zeroExtend 16))

/-- `encode(d)`: the block-internal read of the ROM of the instance's variant, seen in 16 bits; it writes no state (R120). -/
def encodeDigit (v : Variant) (c : Config) (d : Digit) : Except FaultRecord (BitVec 16) :=
  match v with
  | .direct => romRead (romGpioEntry c) d
  | .serial => romRead (fun e => (romSrEntry c e).zeroExtend 16) d

end Sys2Proof.Machine
end

