-- ==== Sys2Proof/Machine/Debounce.lean ====
section
/-! DEFINITION. The Digit State and Debouncer: the two handlers, one shared operation over the button (41_debounce R141, R147). -/

namespace Sys2Proof.Machine

/-- The writes of an accepted event to the Debouncer's registers, on top of the cleared pending flag (R141, R147): the
digit, clamped, and the timestamp, recorded at the clamp too (R142, R148). -/
def State.accepted (s : State) (b : Button) : State :=
  ((s.setPending b false).setDigit (stepDigit b s.digit)).setLast b s.nowMs

/-- An accepted event with its inline refresh, which only variant DIRECT has (R149, R150). In a state no run
reaches, with `digit` above 9, the ROM read faults; log 11. -/
def acceptEvent (b : Button) (s : State) : StepResult :=
  match s.out with
  | .serial _ => .next (s.accepted b)
  | .direct seg => withRead (romRead (romGpioEntry s.cfg) (stepDigit b s.digit)) s
      fun m => (s.accepted b).setOut (.direct (driveLines s.cfg seg m))

/-- The handler of button `b`, given its word: one step, so its read and its writes are atomic, as R75 and R80 have the
model take them (R141, R147, R82, R230, R231, R280). -/
def handler (b : Button) (w : Word) (s : State) : StepResult :=
  whenLive s (requires (s.pending b) (.seqHandler w (s.pending b)) s
    (if s.accepts b then acceptEvent b s else .next (s.setPending b false)))

/-- ISR_INC (R141). -/
def execIsrInc (s : State) : StepResult := handler .inc (encode .isrInc) s

/-- ISR_DEC (R147). -/
def execIsrDec (s : State) : StepResult := handler .dec (encode .isrDec) s

end Sys2Proof.Machine
end

