-- ==== Sys2Proof/Machine/OutputDriver.lean ====
section
/-! DEFINITION. The Output Driver: the Direct-Line write (42_output_driver R171) and the Serial-Shift serializer (R175-R182). -/

namespace Sys2Proof.Machine

/-- PRESENT_DIRECT d (R171): F_VARIANT before F_RANGE (R228). -/
def execPresentDirect (d : Digit) (s : State) : StepResult :=
  whenLive s (onDirect (encode (.presentDirect d)) s fun seg =>
    withRead (romRead (romGpioEntry s.cfg) d) s fun m => s.setOut (.direct (driveLines s.cfg seg m)))

/-- The serializer after SR_SAMPLE read the byte `v` (R175). -/
def Serial.sample (ser : Serial) (v : SrWord) : Serial :=
  { ser with byte := some v, count := 0, phase := .shift }

/-- SR_SAMPLE: `digit` is read whole, in the one step (R175, R75, R80, R280); with `digit` above 9, which no run reaches, log 11. -/
def execSrSample (s : State) : StepResult :=
  whenLive s (onSerial (encode .srSample) s fun ser =>
    requires (ser.phase = .idle) (.seqSerializer (encode .srSample) ser.phase ser.count) s
      (withRead (romRead (romSrEntry s.cfg) s.digit) s fun v => s.setOut (.serial (ser.sample v))))

/-- The bit an SR_SHIFT sends: `ser_byte[7 - ser_count]`, MSB first (R177, R94). In a state no run reaches, where a byte was
never sampled, it is a bit of a free value (R41); log 9. -/
def Serial.linkBit (ser : Serial) (draws : Nat) : Bool :=
  (ser.byte.getD (Config.freeSerByte draws)).getLsbD (7 - ser.count.val)

/-- The shift stage one place toward bit 7, `b` entering bit 0; the bit out of bit 7 is lost (R43, R177). -/
def shiftIn (v : SrWord) (b : Bool) : SrWord := (v <<< 1) ||| (BitVec.ofBool b).zeroExtend 8

/-- The serializer and shift register after SR_SHIFT (R177), which writes no phase; log 19. -/
def Serial.shifted (ser : Serial) (draws : Nat) : Serial :=
  { ser with shiftStage := shiftIn ser.shiftStage (ser.linkBit draws), count := ser.count + 1 }

/-- The enabling condition of SR_SHIFT (R177). -/
def Serial.canShift (ser : Serial) : Bool := ser.phase = .shift ∧ ser.count.val < 8

/-- SR_SHIFT (R177). -/
def execSrShift (s : State) : StepResult :=
  serializerOp (encode .srShift) s Serial.canShift (fun ser => ser.shifted s.draws)

/-- The serializer and shift register after LATCH_SET: the commit is on the rising edge (R180, R181). -/
def Serial.latched (ser : Serial) : Serial :=
  { ser with latchLine := true, store := ser.shiftStage, phase := .latchHigh }

/-- The enabling condition of LATCH_SET (R180). -/
def Serial.canLatch (ser : Serial) : Bool := ser.phase = .shift ∧ ser.count.val = 8

/-- LATCH_SET (R180). -/
def execLatchSet (s : State) : StepResult :=
  serializerOp (encode .latchSet) s Serial.canLatch Serial.latched

/-- The serializer after LATCH_CLEAR (R182). -/
def Serial.cleared (ser : Serial) : Serial :=
  { ser with latchLine := false, phase := .idle }

/-- LATCH_CLEAR (R182). -/
def execLatchClear (s : State) : StepResult :=
  serializerOp (encode .latchClear) s (fun ser => ser.phase = .latchHigh) Serial.cleared

end Sys2Proof.Machine
end

