-- ==== Sys2Proof/Machine/Inputs.lean ====
section
/-! DEFINITION. The environment's operations: the button edges (43_inputs R200, R201), the tick (R203) and RESET
(70_reset_and_hazards R260). -/

namespace Sys2Proof.Machine

/-- EDGE_INC: an edge while pending is merged (R200, R38). -/
def execEdgeInc (s : State) : StepResult := whenLive s (.next (s.setPending .inc true))

/-- EDGE_DEC (R201). -/
def execEdgeDec (s : State) : StepResult := whenLive s (.next (s.setPending .dec true))

/-- The state one millisecond later, modulo 2^W_TICK (R203, R37). -/
def State.ticked (s : State) : State := { s with nowMs := tickAdd s.cfg s.nowMs 1 }

/-- TICK (R203). -/
def execTick (s : State) : StepResult := whenLive s (.next s.ticked)

/-- The output stage after RESET: in DIRECT the segment bits are the nth draw and the other bits are kept; in SERIAL the phase
machine is idle and the two stages are the nth draw (R260). -/
def OutputStage.afterReset (c : Config) (n : Nat) : OutputStage → OutputStage
  | .direct seg => .direct (driveLines c seg (Config.freeSegOut n &&& segLineMask c))
  | .serial _ => .serial
      { phase := .idle, byte := none, count := 0, shiftStage := Config.freeSrShift n, store := Config.freeSrStore n,
        latchLine := false }

/-- The state after RESET: every element but `fault` and `refused`, which are empty and 0 whenever RESET is enabled (R260). -/
def State.afterReset (s : State) : State :=
  { s with
    digit := 0#4, lastInc := 0, lastDec := 0, nowMs := 0,
    pendInc := false, pendDec := false, romQ := none,
    out := s.out.afterReset s.cfg s.draws, draws := s.draws + 1 }

/-- RESET (R260). -/
def execReset (s : State) : StepResult := whenLive s (.next s.afterReset)

end Sys2Proof.Machine
end

