-- ==== Sys2Proof/Machine/Dispatch.lean ====
section
/-! DEFINITION. One arm per operation: its meaning, in the table's order. -/

namespace Sys2Proof.Machine

def exec (i : Instr) (s : State) : Host.Outcome State Fault Refusal :=
  match i with
  | .reset => Sys2Proof.Machine.execReset s
  | .tick => Sys2Proof.Machine.execTick s
  | .edgeInc => Sys2Proof.Machine.execEdgeInc s
  | .edgeDec => Sys2Proof.Machine.execEdgeDec s
  | .isrInc => Sys2Proof.Machine.execIsrInc s
  | .isrDec => Sys2Proof.Machine.execIsrDec s
  | .romGpio d => Sys2Proof.Machine.execRomGpio d s
  | .romSr d => Sys2Proof.Machine.execRomSr d s
  | .presentDirect d => Sys2Proof.Machine.execPresentDirect d s
  | .srSample => Sys2Proof.Machine.execSrSample s
  | .srShift => Sys2Proof.Machine.execSrShift s
  | .latchSet => Sys2Proof.Machine.execLatchSet s
  | .latchClear => Sys2Proof.Machine.execLatchClear s

end Sys2Proof.Machine
end

