-- ==== Sys2Proof/Machine/Scheduler.lean ====
section
/-! DEFINITION. Which operation runs next: the head of the program stream (30_encoding R106, 43_inputs R208), or, with none
listed, any operation the scheduler finds enabled (R206). -/

namespace Sys2Proof.Machine

/-- Who takes an operation's steps (00_scope R23, the agent column of 30_encoding R96). -/
inductive Agent where
  /-- The physical world and the collaborator (R210). -/
  | environment
  /-- The interrupt context (R236). -/
  | interrupt
  /-- The main task (R236). -/
  | mainTask
  /-- A test that drives a stand-alone operation (R23). -/
  | testPort
  deriving DecidableEq, Repr

/-- The agent of an operation (R96); the write of PRESENT_DIRECT is also made inside an accepted handler step (R149). -/
def agentOf : Instr → Agent
  | .reset => .environment
  | .tick => .environment
  | .edgeInc => .environment
  | .edgeDec => .environment
  | .isrInc => .interrupt
  | .isrDec => .interrupt
  | .romGpio _ => .testPort
  | .romSr _ => .testPort
  | .presentDirect _ => .testPort
  | .srSample => .mainTask
  | .srShift => .mainTask
  | .latchSet => .mainTask
  | .latchClear => .mainTask

/-- The operations of the environment, always enabled (R206). -/
def environmentOps : List Instr := [.edgeInc, .edgeDec, .tick, .reset]

/-- The handler operation of a button (R229). -/
def handlerOf : Button → Instr
  | .inc => .isrInc
  | .dec => .isrDec

/-- The enabled handlers (R206). -/
def handlerOps (s : State) : List Instr := ([Button.inc, Button.dec].filter s.pending).map handlerOf

/-- The one serializer operation that is enabled, by phase (R206). -/
def serializerNext (ser : Serial) : Instr :=
  match ser.phase with
  | .idle => .srSample
  | .shift => if ser.count.val < 8 then .srShift else .latchSet
  | .latchHigh => .latchClear

/-- The enabled operations of the main task: one in variant SERIAL, none in variant DIRECT (R206, R187). -/
def mainTaskOps (s : State) : List Instr :=
  match s.out with
  | .direct _ => []
  | .serial ser => [serializerNext ser]

/-- The enabled operations (R206): none in a quiescent state. -/
def enabledOps (s : State) : List Instr :=
  if s.Live then environmentOps ++ handlerOps s ++ mainTaskOps s else []

/-- The operation the scheduler takes: an enabled one, which being a free value (R206, R232); log 6. In a quiescent state,
where none is enabled, it names TICK, which has no step there. -/
def scheduled (s : State) : Instr :=
  (enabledOps s).getD (Config.freeChoice s.draws % (enabledOps s).length) .tick

/-- The next operation, or why the next word is none, and the state it is executed in: a word of the stream is taken off it
(R208); with none left the scheduler chooses (R206). -/
def fetch (s : State) : Except Rejected Instr × State :=
  match s.stream with
  | w :: rest => (decode w, { s with stream := rest })
  | [] => (.ok (scheduled s), s.tookDraw)

end Sys2Proof.Machine
end

