-- ==== Sys2Proof/Machine/Step.lean ====
section
/-! DEFINITION. One step (43_inputs R208, R209): fetch the next operation, refuse a reserved word, else execute it. -/

namespace Sys2Proof.Machine

/-- One step of the machine. -/
def step (s : State) : Host.Outcome State Fault Refusal :=
  match fetch s with
  | (.ok i, s') => exec i s'
  | (.error _, s') => refuseWord s'

/-- The machine with one more word at the head of its program stream, where the step finds its next operation (R208). Every
operation word is 8 bits (R99), so the word is the low 8 bits of `w`. -/
def State.withFetchWord (s : State) (_nbits w : Nat) : State :=
  { s with stream := BitVec.ofNat 8 w :: s.stream }

/-- The words of a program put where the step fetches them: how a program is loaded (R106); log 5. -/
def State.withProgram (s : State) (ws : List Word) : State := { s with stream := ws }

end Sys2Proof.Machine
end

