-- ==== Sys2Proof/Machine/Assembler.lean ====
section
/-! DEFINITION. The spec's notation for programs: the pseudo-instructions (30_encoding R105) and the assembly syntax (R104). -/

namespace Sys2Proof.Machine

/-- One line of a program (R104, R105). -/
inductive AsmLine where
  /-- An operation. -/
  | op (i : Instr)
  /-- `TICKS n`. -/
  | ticks (n : Nat)
  /-- `PRESS_INC`. -/
  | pressInc
  /-- `PRESS_DEC`. -/
  | pressDec
  /-- `REFRESH`. -/
  | refresh
  deriving DecidableEq, Repr

/-- One complete refresh of variant SERIAL (R105, R176). -/
def refreshOps : List Instr := .srSample :: (List.replicate 8 .srShift ++ [.latchSet, .latchClear])

/-- `n` turns of the main task's loop in variant SERIAL, the wait between them being no operation (R176);
log 17. -/
def mainLoop (n : Nat) : List Instr := (List.replicate n refreshOps).flatten

/-- The expansion of a line (R105). -/
def AsmLine.expand : AsmLine → List Instr
  | .op i => [i]
  | .ticks n => List.replicate n .tick
  | .pressInc => [.edgeInc, .isrInc]
  | .pressDec => [.edgeDec, .isrDec]
  | .refresh => refreshOps

/-- The words of a program (R104, R106). -/
def assemble (p : List AsmLine) : List Word := (p.flatMap AsmLine.expand).map encode

/-- The value of a decimal digit character. -/
def digitValue (ch : Char) : Option Nat :=
  if '0' ≤ ch ∧ ch ≤ '9' then some (ch.toNat - '0'.toNat) else none

/-- A decimal integer of at least one digit; leading zeros are allowed (log 16). -/
def parseDecimal (cs : List Char) : Option Nat :=
  if cs = [] then none
  else cs.foldl (fun acc ch => do return (← acc) * 10 + (← digitValue ch)) (some 0)

/-- A digit operand, 0..15 (R104). -/
def parseDigit (cs : List Char) : Option Digit :=
  match parseDecimal cs with
  | some n => if n ≤ 15 then some (BitVec.ofNat 4 n) else none
  | none => none

/-- A line's text without its comment (R104) and without the blanks before it; log 16. -/
def codePart (cs : List Char) : List Char :=
  ((cs.takeWhile (· ≠ ';')).reverse.dropWhile (· = ' ')).reverse

/-- The lines that are a mnemonic alone (R104, R105). -/
def plainLines : List (String × AsmLine) :=
  [("RESET", .op .reset), ("TICK", .op .tick), ("EDGE_INC", .op .edgeInc), ("EDGE_DEC", .op .edgeDec),
   ("ISR_INC", .op .isrInc), ("ISR_DEC", .op .isrDec), ("SR_SAMPLE", .op .srSample), ("SR_SHIFT", .op .srShift),
   ("LATCH_SET", .op .latchSet), ("LATCH_CLEAR", .op .latchClear),
   ("PRESS_INC", .pressInc), ("PRESS_DEC", .pressDec), ("REFRESH", .refresh)]

/-- A mnemonic that takes an operand, applied to the operand's text (R104, R105). -/
def operandLine (mnemonic operand : List Char) : Option AsmLine :=
  if mnemonic = "ROM_GPIO".toList then (parseDigit operand).map (.op ∘ .romGpio)
  else if mnemonic = "ROM_SR".toList then (parseDigit operand).map (.op ∘ .romSr)
  else if mnemonic = "PRESENT_DIRECT".toList then (parseDigit operand).map (.op ∘ .presentDirect)
  else if mnemonic = "TICKS".toList then (parseDecimal operand).map .ticks
  else none

/-- One line of text: nothing for a blank line, else one line of a program, or `none` where it is not in the syntax (R104). -/
def parseLine (cs : List Char) : Option (List AsmLine) :=
  match codePart cs with
  | [] => some []
  | code =>
    match plainLines.find? (fun p => p.1.toList = code) with
    | some p => some [p.2]
    | none =>
      let mnemonic := code.takeWhile (· ≠ ' ')
      (operandLine mnemonic (code.drop (mnemonic.length + 1))).map fun l => [l]

/-- The lines of a text. -/
def splitLines : List Char → List (List Char)
  | [] => [[]]
  | ch :: cs =>
    if ch = '\n' then [] :: splitLines cs
    else
      match splitLines cs with
      | l :: ls => (ch :: l) :: ls
      | [] => [[ch]]

/-- A whole program text to its words, or `none` where a line is not in the syntax (R104-R106). -/
def assembleText (text : List Char) : Option (List Word) :=
  ((splitLines text).mapM parseLine).map fun ls => assemble ls.flatten

/-- A decimal digit operand as R104 writes it, without leading zeros. -/
def digitText (d : Digit) : List Char :=
  if d.toNat < 10 then [Char.ofNat ('0'.toNat + d.toNat)] else ['1', Char.ofNat ('0'.toNat + (d.toNat - 10))]

/-- An operation as a line of assembly (R104). -/
def instrText : Instr → List Char
  | .reset => "RESET".toList
  | .tick => "TICK".toList
  | .edgeInc => "EDGE_INC".toList
  | .edgeDec => "EDGE_DEC".toList
  | .isrInc => "ISR_INC".toList
  | .isrDec => "ISR_DEC".toList
  | .romGpio d => "ROM_GPIO ".toList ++ digitText d
  | .romSr d => "ROM_SR ".toList ++ digitText d
  | .presentDirect d => "PRESENT_DIRECT ".toList ++ digitText d
  | .srSample => "SR_SAMPLE".toList
  | .srShift => "SR_SHIFT".toList
  | .latchSet => "LATCH_SET".toList
  | .latchClear => "LATCH_CLEAR".toList

end Sys2Proof.Machine
end

