-- ==== Sys2Proof/Machine/Ports.lean ====
section
/-! DEFINITION. What the outside sees and does: the output ports and the display as functions of the state (00_scope R17,
10_state R55), the button lines (43_inputs R202), the lines' configuration (10_state R51) and the collaborator's capabilities
as operations (00_scope R18). -/

namespace Sys2Proof.Machine

/-- Bit `SEG_PIN(s)` of `seg_out`, or bit `SEG_QBIT(s)` of `sr_store`: high lights the segment (R55, R174). -/
def State.drives (s : State) (sg : Segment) : Bool :=
  match s.out with
  | .direct seg => seg.getLsbD (s.cfg.segPin.pos sg)
  | .serial ser => ser.store.getLsbD (s.cfg.segQbit.pos sg)

/-- `display()`: the present segments that are lit (R55). -/
def State.display (s : State) : List Segment := s.cfg.segments.filter s.drives

/-- The DebounceWindow of the source, `{last_inc, last_dec}` (R53). -/
def State.debounceWindow (s : State) : Nat × Nat := (s.lastInc, s.lastDec)

/-- The level of output Q`i`, QA being 0 and QH 7; only variant SERIAL has the shift register (R44, R93). -/
def State.parallelOut (s : State) (i : Fin 8) : Option Bool :=
  match s.out with
  | .direct _ => none
  | .serial ser => some (ser.store.getLsbD i.val)

/-- The level of the latch line, which only variant SERIAL has (R45). -/
def State.latchLevel (s : State) : Option Bool :=
  match s.out with
  | .direct _ => none
  | .serial ser => some ser.latchLine

/-- The bit on the serial link during the next SR_SHIFT, where that is the operation the main task has next (R94, R177);
log 15. -/
def State.linkBit (s : State) : Option Bool :=
  match s.out with
  | .direct _ => none
  | .serial ser => if ser.canShift then some (ser.linkBit s.draws) else none

/-- The collaborator's line identifiers: distinct names (R16). -/
inductive LineId where
  /-- LINE_INC and LINE_DEC. -/
  | button (b : Button)
  /-- One of SEG_LINES. -/
  | segment (sg : Segment)
  /-- LINK. -/
  | link
  /-- LATCH_LINE. -/
  | latch
  deriving DecidableEq, Repr

/-- How a line is configured before the block runs (R51). -/
inductive LineMode where
  /-- A segment line or the latch line (R51, R174). -/
  | outputPushPull
  /-- A button line (R51, R202). -/
  | inputPullUp
  deriving DecidableEq, Repr

/-- Which edge of a line raises its interrupt: the source names this one alone (R51, R202). -/
inductive InterruptEdge where
  /-- `FallingEdge`. -/
  | fallingEdge
  deriving DecidableEq, Repr

/-- IRQ_PRIO_INC and IRQ_PRIO_DEC (R15). -/
def irqPriority (c : Config) : Button → Nat
  | .inc => c.irqPrioInc
  | .dec => c.irqPrioDec

/-- The configuration of an instance's lines at boot; no operation reads or writes it (R51, R271). The link is not a line the
source configures by mode. -/
def lineMode (v : Variant) (c : Config) : LineId → Option LineMode
  | .button _ => some .inputPullUp
  | .segment sg => if v = .direct ∧ sg ∈ c.segments then some .outputPushPull else none
  | .latch => if v = .serial then some .outputPushPull else none
  | .link => none

/-- The edge operation of a button (R200, R201). -/
def edgeOf : Button → Instr
  | .inc => .edgeInc
  | .dec => .edgeDec

/-- The operation a change of a button line's level is: a falling edge is an event, a rising edge or no change is none (R202). -/
def lineEvent (b : Button) (before after : Bool) : Option Instr :=
  if before ∧ ¬ after then some (edgeOf b) else none

/-- The collaborator's capabilities that act on a running block, and its boot-time ones (R18). -/
inductive Capability where
  /-- `configureLine(id, mode)` (R271). -/
  | configureLine (l : LineId) (mode : LineMode)
  /-- `configureInterrupt(id, edge, priority)` (R51, R229, R271). -/
  | configureInterrupt (b : Button) (edge : InterruptEdge) (priority : Nat)
  /-- `writeLines(batch)` with the levels of a digit. -/
  | writeLines (d : Digit)
  /-- `writeLine(LATCH_LINE, level)`. -/
  | writeLatch (high : Bool)
  /-- `transmitByte(link, byte, msbFirst = true)`. -/
  | transmitByte
  /-- `nowMillis()`. -/
  | nowMillis
  deriving DecidableEq, Repr

/-- The operations a capability is (R18): boot-time configuration is none, and a read of `now_ms` is no operation of its own. -/
def Capability.ops : Capability → List Instr
  | .configureLine _ _ => []
  | .configureInterrupt _ _ _ => []
  | .writeLines d => [.presentDirect d]
  | .writeLatch high => if high then [.latchSet] else [.latchClear]
  | .transmitByte => List.replicate 8 .srShift
  | .nowMillis => []

/-- A part of boot (R270, R271). -/
inductive BootPart where
  /-- The collaborator's capability used (steps 1, 2 and 5 of R271). -/
  | use (cap : Capability)
  /-- Set up the serial link (step 1). -/
  | setUpLink
  /-- Start the millisecond tick at 0 (step 3). -/
  | startTick
  /-- Set the controller state to its reset values (step 4, R260). -/
  | resetState
  /-- Enter the main loop (step 6). -/
  | enterMainLoop
  deriving DecidableEq, Repr

/-- The output lines of the variant, and in SERIAL the link (step 1 of R271). -/
def bootOutputs (v : Variant) (c : Config) : List BootPart :=
  match v with
  | .direct => c.segments.map fun sg => .use (.configureLine (.segment sg) .outputPushPull)
  | .serial => [.use (.configureLine .latch .outputPushPull), .setUpLink]

/-- One part of boot for each button (steps 2 and 5 of R271). -/
def forButtons (f : Button → Capability) : List BootPart := [.use (f .inc), .use (f .dec)]

/-- Boot in the order of R271; the order among lines, and of the two interrupts, is the list's own (log 15). In the model the
whole of boot is the one RESET step, of which this is what the collaborator does outside the block. -/
def bootSequence (v : Variant) (c : Config) : List BootPart :=
  bootOutputs v c ++ forButtons (fun b => .configureLine (.button b) .inputPullUp) ++ [.startTick, .resetState] ++
    forButtons (fun b => .configureInterrupt b .fallingEdge (irqPriority c b)) ++ [.enterMainLoop]

/-- The operations of the block that a part of boot is: setting the state is RESET, and no other part is one (R18, R271). -/
def BootPart.ops : BootPart → List Instr
  | .use cap => cap.ops
  | .setUpLink => []
  | .startTick => []
  | .resetState => [.reset]
  | .enterMainLoop => []

end Sys2Proof.Machine
end

