-- ==== Sys2Proof/Safety.lean ====
section
/-! DEFINITION. The terms claims use: the invariant of a run, sequences of operations, accepted events, fairness. -/

namespace Sys2Proof.Machine

/-- A byte that ROM_SR holds for some digit of the encoder's domain (40_encoder R120, R128). -/
def IsSrEntry (c : Config) (b : SrWord) : Prop := ∃ d : Digit, d.toNat ≤ 9 ∧ b = romSrEntry c d

/-- The phase machine's invariant. Idle: the latch line is low, and either no refresh was completed since reset, or the byte
last sent stands in both stages (R45, R184). SHIFT with count k: the latch line is low and `sr_shift[k-1:0] =
ser_byte[7:8-k]` (R178). LATCH_HIGH: the latch line is high and the byte sent is committed (R180, R183). The byte, where there
is one, is an entry of ROM_SR (R41, R175). -/
def Serial.Inv (c : Config) (ser : Serial) : Prop :=
  match ser.phase with
  | .idle => ser.latchLine = false ∧
      ((ser.byte = none ∧ ser.count.val = 0) ∨
       (∃ b, ser.byte = some b ∧ IsSrEntry c b ∧ ser.shiftStage = b ∧ ser.store = b ∧ ser.count.val = 8))
  | .shift => ser.latchLine = false ∧ ∃ b, ser.byte = some b ∧ IsSrEntry c b ∧
      ∀ j, j < ser.count.val → ser.shiftStage.getLsbD j = b.getLsbD (8 - ser.count.val + j)
  | .latchHigh => ser.latchLine = true ∧ ser.count.val = 8 ∧
      ∃ b, ser.byte = some b ∧ IsSrEntry c b ∧ ser.shiftStage = b ∧ ser.store = b

/-- The invariant of the output stage: the phase machine's, in variant SERIAL. -/
def OutputStage.Inv (c : Config) : OutputStage → Prop
  | .direct _ => True
  | .serial ser => ser.Inv c

/-- The invariant of a run: admissible parameters, `digit` in 0..9 (R32), the counter and the timestamps within W_TICK bits
(R33, R34, R36), the phase machine's invariant, and at most one stop recorded, since the first is final (R221, R225). -/
structure State.Inv (s : State) : Prop where
  cfg : s.cfg.WellFormed
  digit : s.digit.toNat ≤ 9
  nowMs : s.nowMs < 2 ^ s.cfg.tickWidth
  lastInc : s.lastInc < 2 ^ s.cfg.tickWidth
  lastDec : s.lastDec < 2 ^ s.cfg.tickWidth
  out : s.out.Inv s.cfg
  oneFault : s.fault.length ≤ 1
  oneStop : s.fault = [] ∨ s.refused = false

/-- Operations executed one after the other, stopping at the first that has no next state (R106). -/
def runOps : List Instr → State → StepResult
  | [], s => .next s
  | i :: is, s =>
    match exec i s with
    | .next t => runOps is t
    | .fault r => .fault r
    | .refused r => .refused r

/-- `k` steps of the machine, stopping at the first that has no next state. -/
def runSteps : Nat → State → StepResult
  | 0, s => .next s
  | k + 1, s =>
    match step s with
    | .next t => runSteps k t
    | .fault r => .fault r
    | .refused r => .refused r

/-- The operations of the main task (R23). -/
def isMainTaskOp (i : Instr) : Bool := agentOf i = .mainTask

/-- The handler of `b` run in this state is an ACCEPTED event (R25): it is enabled and its guard comparison passes. -/
abbrev State.acceptsNow (s : State) (b : Button) : Prop := s.Live ∧ s.pending b = true ∧ s.accepts b = true

/-- An infinite run: every state is the next one of the state before it. -/
def IsRun (r : Nat → State) : Prop := ∀ n, step (r n) = .next (r (n + 1))

/-- Fairness of an infinite run, the spec's only timing assumption (R207); a premise claims may take, which no step imposes
(log 14). -/
structure Fair (r : Nat → State) : Prop where
  /-- A handler that stays enabled eventually runs. -/
  handlers : ∀ b n, (∀ m, n ≤ m → (r m).pending b = true) → ∃ m, n ≤ m ∧ (fetch (r m)).1 = .ok (handlerOf b)
  /-- In variant SERIAL the main task eventually takes its next step. -/
  mainTask : ∀ n, (r n).variant = .serial → ∃ m, n ≤ m ∧ ∃ i ∈ mainTaskOps (r m), (fetch (r m)).1 = .ok i
  /-- TICK happens infinitely often. -/
  ticks : ∀ n, ∃ m, n ≤ m ∧ (fetch (r m)).1 = .ok .tick

end Sys2Proof.Machine
end

