-- ==== Sys2Proof/Certificates/Slice0/Obligations.lean ====
section
/-! DEFINITION. The statements for the provers. Each docstring names the rules of spec/ it formalises. -/

open Sys2Proof Sys2Proof.Machine

/-! ### Encoding -/

/-- R95, R96, R97, R98: a word decodes to an operation exactly where it is that operation's word, for every operation and every
digit operand. -/
def Obligations.DecodeEncodeAgree : Prop :=
  ∀ (i : Instr) (w : Word), decode w = .ok i ↔ w = encode i

/-- R100: the reserved words are the listed ranges, 198 of them, and a step on one sets `refused` and changes no other state. -/
def Obligations.ReservedWordsSetRefused : Prop :=
  (∀ w : Word, decode w = .error .reservedWord ↔
    ((0x01 ≤ w.toNat ∧ w.toNat ≤ 0x0F) ∨ (0x11 ≤ w.toNat ∧ w.toNat ≤ 0x1F) ∨ (0x22 ≤ w.toNat ∧ w.toNat ≤ 0x2F) ∨
     (0x32 ≤ w.toNat ∧ w.toNat ≤ 0x3F) ∨ (0x71 ≤ w.toNat ∧ w.toNat ≤ 0x7F) ∨ (0x81 ≤ w.toNat ∧ w.toNat ≤ 0x8F) ∨
     (0x91 ≤ w.toNat ∧ w.toNat ≤ 0x9F) ∨ (0xA1 ≤ w.toNat ∧ w.toNat ≤ 0xAF) ∨ (0xB0 ≤ w.toNat ∧ w.toNat ≤ 0xFF))) ∧
  (List.range 256).countP (fun n => decode (BitVec.ofNat 8 n) = .error .reservedWord) = 198 ∧
  ∀ (s : State) (w : Word) (rest : List Word), s.Live → s.stream = w :: rest → decode w = .error .reservedWord →
    step s = .next { s with stream := rest, refused := true }

/-- 95_test_vectors L2.1 (R96, R97): words written out from the map decode to the operation they stand for. -/
def Obligations.SampleWordsDecode : Prop :=
  decode 0b00000000#8 = .ok .reset ∧ decode 0b00010000#8 = .ok .tick ∧ decode 0b00100001#8 = .ok .edgeDec ∧
  decode 0b00110000#8 = .ok .isrInc ∧ decode 0b01001010#8 = .ok (.romGpio 10#4) ∧
  decode 0b01011111#8 = .ok (.romSr 15#4) ∧ decode 0b01100011#8 = .ok (.presentDirect 3#4) ∧
  decode 0b10000000#8 = .ok .srShift ∧ decode 0b10100000#8 = .ok .latchClear ∧
  decode 0b00111111#8 = .error .reservedWord

/-- R104: the line of assembly of every operation, with every digit operand, assembles to its one operation word. -/
def Obligations.EachOperationAssembles : Prop :=
  ∀ i : Instr, assembleText (instrText i) = some [encode i]

/-- R105: the pseudo-instructions mean exactly their expansions, in the program and as text; a line is an operation or one of
the four, an operation means its own word, and a program the words of its lines one after the other. -/
def Obligations.PseudoInstructionsExpand : Prop :=
  (∀ l : AsmLine, (∃ i, l = .op i) ∨ (∃ n, l = .ticks n) ∨ l = .pressInc ∨ l = .pressDec ∨ l = .refresh) ∧
  (∀ i : Instr, assemble [.op i] = [encode i]) ∧
  (∀ n, assemble [.ticks n] = List.replicate n 0x10#8) ∧
  assemble [.pressInc] = [0x20#8, 0x30#8] ∧
  assemble [.pressDec] = [0x21#8, 0x31#8] ∧
  assemble [.refresh] =
    [0x70#8, 0x80#8, 0x80#8, 0x80#8, 0x80#8, 0x80#8, 0x80#8, 0x80#8, 0x80#8, 0x90#8, 0xA0#8] ∧
  (∀ p q : List AsmLine, assemble (p ++ q) = assemble p ++ assemble q) ∧
  assembleText "PRESS_INC".toList = some (assemble [.pressInc]) ∧
  assembleText "PRESS_DEC".toList = some (assemble [.pressDec]) ∧
  assembleText "REFRESH".toList = some (assemble [.refresh]) ∧
  ∀ d : Digit, assembleText ("TICKS ".toList ++ digitText d) = some (assemble [.ticks d.toNat])

/-! ### Steps, programs, the scheduler -/

/-- R208, R209: where the next word of the stream decodes to an operation, the step takes the word off the stream and is that
operation's execution. -/
def Obligations.StepRunsDecodedInstruction : Prop :=
  ∀ (s : State) (w : Word) (rest : List Word) (i : Instr), s.stream = w :: rest → decode w = .ok i →
    step s = exec i { s with stream := rest }

/-- R106, R208: running a program's words, one a step, gives what executing its operations in order gives. -/
def Obligations.ProgramRunIsItsOperations : Prop :=
  ∀ (p : List AsmLine) (s : State),
    runSteps (assemble p).length (s.withProgram (assemble p)) =
      runOps (p.flatMap AsmLine.expand) (s.withProgram [])

/-- R206: the enabled operations, and, with no word listed, a step of a live state is the execution of one of them. -/
def Obligations.SchedulerTakesAnEnabledOperation : Prop :=
  (∀ (s : State) (i : Instr), i ∈ enabledOps s ↔ (s.Live ∧
    (i = .edgeInc ∨ i = .edgeDec ∨ i = .tick ∨ i = .reset ∨
     (i = .isrInc ∧ s.pendInc = true) ∨ (i = .isrDec ∧ s.pendDec = true) ∨
     ∃ ser, s.out = .serial ser ∧
       ((i = .srSample ∧ ser.phase = .idle) ∨ (i = .srShift ∧ ser.phase = .shift ∧ ser.count.val < 8) ∨
        (i = .latchSet ∧ ser.phase = .shift ∧ ser.count.val = 8) ∨ (i = .latchClear ∧ ser.phase = .latchHigh))))) ∧
  ∀ s : State, s.Live → s.stream = [] → ∃ i ∈ enabledOps s, step s = exec i { s with draws := s.draws + 1 }

/-- R132, R186, R224, R234: an operation the block's own agents issue has a next state, which is no faulted one. -/
def Obligations.EnabledOperationsComplete : Prop :=
  ∀ (s : State) (i : Instr), s.Inv → i ∈ enabledOps s → ∃ t, exec i s = .next t ∧ t.Live

/-! ### Invariants -/

/-- R32, R33, R34, R36, R45, R151, R178, R183, R221, R225: every step keeps the invariant of a run. -/
def Obligations.StepKeepsInvariant : Prop :=
  ∀ s t : State, s.Inv → step s = .next t → t.Inv

/-- R260, R261: the first state of a run meets the invariant, in either variant and for all admissible parameters. -/
def Obligations.PowerOnMeetsInvariant : Prop :=
  (∀ (v : Variant) (c : Config), c.WellFormed → (State.powerOn v c).Inv) ∧ State.reset.Inv

/-- R260, R261: the values of the first state of a run. The reference parameters and variant SERIAL of State.reset are the
model's choice (log 2). -/
def Obligations.PowerOnValues : Prop :=
  (∀ (v : Variant) (c : Config), ∃ t, State.powerOn v c = t ∧ t.digit = 0#4 ∧ t.lastInc = 0 ∧ t.lastDec = 0 ∧ t.nowMs = 0 ∧
    t.pendInc = false ∧ t.pendDec = false ∧ t.romQ = none ∧ t.fault = [] ∧ t.refused = false ∧ t.variant = v ∧ t.cfg = c ∧
    handlerOps t = []) ∧
  (∀ c : Config, ∃ ser, (State.powerOn .serial c).out = .serial ser ∧ ser.phase = .idle ∧ ser.count.val = 0 ∧
    ser.byte = none ∧ ser.latchLine = false ∧ mainTaskOps (State.powerOn .serial c) = [.srSample]) ∧
  (∀ c : Config, mainTaskOps (State.powerOn .direct c) = []) ∧
  State.reset = State.powerOn .serial referenceConfig ∧ State.reset.cfg.tickWidth = 32

/-- R3, R30, R51, R72: a step changes neither the variant nor a parameter nor what any ROM read answers. -/
def Obligations.VariantAndRomsNeverChange : Prop :=
  ∀ s t : State, step s = .next t → t.variant = s.variant ∧ t.cfg = s.cfg ∧
    ∀ d, romRead (romGpioEntry t.cfg) d = romRead (romGpioEntry s.cfg) d ∧
      romRead (romSrEntry t.cfg) d = romRead (romSrEntry s.cfg) d

/-- Only an element's writers change it: the "written by" column of the summary table of 10_state.md and R54, but for `ser_phase`,
where this is narrower than the table. The table lists SR_SHIFT among its writers, and R177 ("State written: `sr_shift`,
`ser_count`") has it write no phase (log 19). No record leaves `fault` (R47), and no operation writes `refused` (R48), the parameters (R30)
or the model's own stream (log 5). -/
def Obligations.OnlyWritersChangeAnElement : Prop :=
  ∀ (i : Instr) (s t : State), exec i s = .next t →
    (t.digit ≠ s.digit → i = .isrInc ∨ i = .isrDec ∨ i = .reset) ∧
    (t.lastInc ≠ s.lastInc → i = .isrInc ∨ i = .reset) ∧
    (t.lastDec ≠ s.lastDec → i = .isrDec ∨ i = .reset) ∧
    (t.nowMs ≠ s.nowMs → i = .tick ∨ i = .reset) ∧
    (t.pendInc ≠ s.pendInc → i = .edgeInc ∨ i = .isrInc ∨ i = .reset) ∧
    (t.pendDec ≠ s.pendDec → i = .edgeDec ∨ i = .isrDec ∨ i = .reset) ∧
    (t.romQ ≠ s.romQ → (∃ d, i = .romGpio d ∨ i = .romSr d) ∨ i = .reset) ∧
    (∀ seg, s.out = .direct seg → t.out ≠ s.out →
      (∃ d, i = .presentDirect d) ∨ i = .isrInc ∨ i = .isrDec ∨ i = .reset) ∧
    (∀ p, s.out = .serial p → ∃ q, t.out = .serial q ∧
      (q.phase ≠ p.phase → i = .srSample ∨ i = .latchSet ∨ i = .latchClear ∨ i = .reset) ∧
      (q.byte ≠ p.byte → i = .srSample ∨ i = .reset) ∧
      (q.count ≠ p.count → i = .srSample ∨ i = .srShift ∨ i = .reset) ∧
      (q.shiftStage ≠ p.shiftStage → i = .srShift ∨ i = .reset) ∧
      (q.store ≠ p.store → i = .latchSet ∨ i = .reset) ∧
      (q.latchLine ≠ p.latchLine → i = .latchSet ∨ i = .latchClear ∨ i = .reset)) ∧
    s.fault ⊆ t.fault ∧ t.refused = s.refused ∧ t.cfg = s.cfg ∧ t.stream = s.stream

/-- R75, R79, R80, R280: what one step does is whole. A step that changes `digit` is a handler's, accepted, and has recorded the
time, cleared the flag and, in variant DIRECT, drawn the new digit. A step that changes `ser_byte` is SR_SAMPLE's and has read the
whole `digit`. A step that changes a segment line has drawn all of them. RESET is apart, as its levels are drawn. And the one step
that takes the word of an accepted handler, or of SR_SAMPLE, gives the state after its whole effect, named element by element. -/
def Obligations.StepsAreAtomic : Prop :=
  (∀ s t : State, s.Inv → step s = .next t → (fetch s).1 ≠ .ok .reset →
    (t.digit ≠ s.digit → ∃ b, (fetch s).1 = .ok (handlerOf b) ∧ s.acceptsNow b ∧ t.digit = stepDigit b s.digit ∧
      t.last b = s.nowMs ∧ t.pending b = false ∧
      ∀ seg, s.out = .direct seg → ∀ sg, sg ∈ t.display ↔ sg ∈ s.cfg.fontAt t.digit) ∧
    (∀ p q, s.out = .serial p → t.out = .serial q → q.byte ≠ p.byte →
      (fetch s).1 = .ok .srSample ∧ q.byte = some (romSrEntry s.cfg s.digit) ∧ q.phase = .shift ∧ q.count = 0 ∧
      t.digit = s.digit) ∧
    (∀ seg, s.out = .direct seg → t.out ≠ s.out →
      ∃ d : Digit, d.toNat ≤ 9 ∧ ∀ sg, sg ∈ t.display ↔ sg ∈ s.cfg.fontAt d)) ∧
  (∀ (b : Button) (s : State) (rest : List Word), s.Inv → s.acceptsNow b → s.stream = encode (handlerOf b) :: rest →
    ∀ u, u = ((({ s with stream := rest } : State).setPending b false).setDigit (stepDigit b s.digit)).setLast b s.nowMs →
      (∀ seg, s.out = .direct seg → ∃ t, step s = .next t ∧
        t = { u with out := .direct ((seg &&& ~~~ segLineMask s.cfg) ||| romGpioEntry s.cfg (stepDigit b s.digit)) } ∧
        ∀ sg, sg ∈ t.display ↔ sg ∈ s.cfg.fontAt (stepDigit b s.digit)) ∧
      (∀ ser, s.out = .serial ser → step s = .next u)) ∧
  ∀ (s : State) (rest : List Word) (p : Serial), s.Inv → s.Live → s.out = .serial p → p.phase = .idle →
    s.stream = 0x70#8 :: rest → step s = .next
      { s with stream := rest,
               out := .serial { p with byte := some (romSrEntry s.cfg s.digit), count := 0, phase := .shift } }

/-! ### Reset, time, edges -/

/-- R260: RESET in either variant. The drawn levels are left open; of `seg_out` only the segment bits are drawn. -/
def Obligations.ResetResult : Prop :=
  decode 0x00#8 = .ok .reset ∧
  (∀ s : State, s.Live → ∃ t, exec .reset s = .next t ∧
    t.digit = 0#4 ∧ t.lastInc = 0 ∧ t.lastDec = 0 ∧ t.nowMs = 0 ∧ t.pendInc = false ∧ t.pendDec = false ∧ t.romQ = none ∧
    t.fault = [] ∧ t.refused = false ∧ t.cfg = s.cfg ∧ t.stream = s.stream ∧
    (∀ seg, s.out = .direct seg → ∃ seg', t.out = .direct seg' ∧
      seg' &&& ~~~ segLineMask s.cfg = seg &&& ~~~ segLineMask s.cfg) ∧
    (∀ ser, s.out = .serial ser → ∃ sh st, t.out = .serial
      { phase := .idle, byte := none, count := 0, shiftStage := sh, store := st, latchLine := false })) ∧
  ∀ s t : State, ¬ s.Live → exec .reset s ≠ .next t

/-- R203: TICK adds one modulo 2^W_TICK and changes nothing else, whatever W_TICK is. -/
def Obligations.TickResult : Prop :=
  decode 0x10#8 = .ok .tick ∧
  ∀ s : State, s.Live → exec .tick s = .next { s with nowMs := (s.nowMs + 1) % 2 ^ s.cfg.tickWidth }

/-- R200: EDGE_INC sets `pend_inc`, and merges where it is already set. -/
def Obligations.EdgeIncResult : Prop :=
  decode 0x20#8 = .ok .edgeInc ∧
  ∀ s : State, s.Live → exec .edgeInc s = .next { s with pendInc := true } ∧
    (s.pendInc = true → exec .edgeInc s = .next s)

/-- R201: EDGE_DEC, the same with `pend_dec`. -/
def Obligations.EdgeDecResult : Prop :=
  decode 0x21#8 = .ok .edgeDec ∧
  ∀ s : State, s.Live → exec .edgeDec s = .next { s with pendDec := true } ∧
    (s.pendDec = true → exec .edgeDec s = .next s)

/-- R38, R200, R201, with R141, R147 and R224 for the handler: any number of edges of either button before its handler runs are
one request: the handler clears it, and a second handler word is F_SEQ. -/
def Obligations.MergedEdgesAreOneRequest : Prop :=
  ∀ (b : Button) (s : State) (k : Nat), s.Live → s.digit.toNat ≤ 9 →
    runOps (List.replicate (k + 1) (edgeOf b)) s = .next (s.setPending b true) ∧
    ∃ t, runOps (List.replicate (k + 1) (edgeOf b) ++ [handlerOf b]) s = .next t ∧ t.Live ∧ t.pending b = false ∧
      exec (handlerOf b) t = .next { t with fault := [.seqHandler (encode (handlerOf b)) false] }

/-- R36, R37, R204: with no RESET in between, `now_ms` has advanced by the number of TICKs, modulo 2^W_TICK. -/
def Obligations.TimeIsCountedInTicks : Prop :=
  ∀ (is : List Instr) (s t : State), s.nowMs < 2 ^ s.cfg.tickWidth → runOps is s = .next t →
    .reset ∉ is → t.nowMs = (s.nowMs + is.count .tick) % 2 ^ s.cfg.tickWidth

/-- R202: a falling edge on a button line is its EDGE operation; a rising edge, or no change, is no operation. -/
def Obligations.OnlyFallingEdgesAreEvents : Prop :=
  ∀ (b : Button) (before after : Bool),
    lineEvent b before after =
      if before = true ∧ after = false then some (match b with | .inc => .edgeInc | .dec => .edgeDec) else none

/-- R15, R18, R51, R270, R271: the lines boot configures and their modes, in each variant, both interrupts on the falling edge
at their priorities, each after the state is set; setting the state is RESET, and no other part of boot is an operation. -/
def Obligations.BootConfiguresLinesWithoutOperations : Prop :=
  (∀ (c : Config) (l : LineId) (m : LineMode), .use (.configureLine l m) ∈ bootSequence .direct c ↔
    (m = .inputPullUp ∧ ∃ b, l = .button b) ∨ (m = .outputPushPull ∧ ∃ sg ∈ c.segments, l = .segment sg)) ∧
  (∀ (c : Config) (l : LineId) (m : LineMode), .use (.configureLine l m) ∈ bootSequence .serial c ↔
    (m = .inputPullUp ∧ ∃ b, l = .button b) ∨ (m = .outputPushPull ∧ l = .latch)) ∧
  (∀ (v : Variant) (c : Config) (l : LineId) (m : LineMode),
    lineMode v c l = some m ↔ .use (.configureLine l m) ∈ bootSequence v c) ∧
  (∀ (v : Variant) (c : Config), .setUpLink ∈ bootSequence v c ↔ v = .serial) ∧
  (∀ (v : Variant) (c : Config) (b : Button) (e : InterruptEdge) (p : Nat),
    .use (.configureInterrupt b e p) ∈ bootSequence v c ↔
      e = .fallingEdge ∧ p = (match b with | .inc => c.irqPrioInc | .dec => c.irqPrioDec)) ∧
  ∀ (v : Variant) (c : Config), ∃ before after, bootSequence v c = before ++ .startTick :: .resetState :: after ∧
    (∀ b e p, .use (.configureInterrupt b e p) ∉ before) ∧ (∀ l m, .use (.configureLine l m) ∉ after) ∧
    before.flatMap BootPart.ops = [] ∧ after.flatMap BootPart.ops = [] ∧
    (bootSequence v c).flatMap BootPart.ops = [.reset]

/-! ### The Debouncer -/

/-- R141: ISR_INC, accepted, discarded and not enabled, in both variants. -/
def Obligations.IsrIncResult : Prop :=
  decode 0x30#8 = .ok .isrInc ∧
  ∀ s : State, s.Live →
    (s.pendInc = false → exec .isrInc s = .next { s with fault := [.seqHandler 0x30#8 false] }) ∧
    (s.pendInc = true → ((s.nowMs : Int) - s.lastInc) % 2 ^ s.cfg.tickWidth < 200 → exec .isrInc s = .next { s with pendInc := false }) ∧
    (s.pendInc = true → 200 ≤ ((s.nowMs : Int) - s.lastInc) % 2 ^ s.cfg.tickWidth → s.digit.toNat ≤ 9 → ∀ d' : Digit,
      d' = (if s.digit.toNat < 9 then s.digit + 1#4 else s.digit) →
      (∀ seg, s.out = .direct seg → exec .isrInc s = .next
        { s with pendInc := false, digit := d', lastInc := s.nowMs,
                 out := .direct ((seg &&& ~~~ segLineMask s.cfg) ||| romGpioEntry s.cfg d') }) ∧
      (∀ ser, s.out = .serial ser → exec .isrInc s = .next
        { s with pendInc := false, digit := d', lastInc := s.nowMs }))

/-- R147: ISR_DEC, accepted, discarded and not enabled, in both variants. -/
def Obligations.IsrDecResult : Prop :=
  decode 0x31#8 = .ok .isrDec ∧
  ∀ s : State, s.Live →
    (s.pendDec = false → exec .isrDec s = .next { s with fault := [.seqHandler 0x31#8 false] }) ∧
    (s.pendDec = true → ((s.nowMs : Int) - s.lastDec) % 2 ^ s.cfg.tickWidth < 200 → exec .isrDec s = .next { s with pendDec := false }) ∧
    (s.pendDec = true → 200 ≤ ((s.nowMs : Int) - s.lastDec) % 2 ^ s.cfg.tickWidth → s.digit.toNat ≤ 9 → ∀ d' : Digit,
      d' = (if s.digit.toNat > 0 then s.digit - 1#4 else s.digit) →
      (∀ seg, s.out = .direct seg → exec .isrDec s = .next
        { s with pendDec := false, digit := d', lastDec := s.nowMs,
                 out := .direct ((seg &&& ~~~ segLineMask s.cfg) ||| romGpioEntry s.cfg d') }) ∧
      (∀ ser, s.out = .serial ser → exec .isrDec s = .next
        { s with pendDec := false, digit := d', lastDec := s.nowMs }))

/-- R142, R148: an event accepted at its end of the range keeps the digit, records the time, and in DIRECT rewrites the lines,
which changes nothing where they already showed that digit. -/
def Obligations.ClampedEventIsRecorded : Prop :=
  ∀ s : State,
    (s.acceptsNow .inc → s.digit = 9#4 → ∃ t, exec .isrInc s = .next t ∧ t.digit = 9#4 ∧ t.lastInc = s.nowMs ∧
      ∀ seg, s.out = .direct seg →
        t.out = .direct ((seg &&& ~~~ segLineMask s.cfg) ||| romGpioEntry s.cfg 9#4) ∧
        (seg &&& segLineMask s.cfg = romGpioEntry s.cfg 9#4 → t.out = s.out)) ∧
    (s.acceptsNow .dec → s.digit = 0#4 → ∃ t, exec .isrDec s = .next t ∧ t.digit = 0#4 ∧ t.lastDec = s.nowMs ∧
      ∀ seg, s.out = .direct seg →
        t.out = .direct ((seg &&& ~~~ segLineMask s.cfg) ||| romGpioEntry s.cfg 0#4) ∧
        (seg &&& segLineMask s.cfg = romGpioEntry s.cfg 0#4 → t.out = s.out))

/-- R143: the comparison of the guard is `>=`: an event whose handler runs 200 ms or more after the last accepted one is
accepted, one that runs less than 200 ms after is discarded; the two sides of the boundary are 200 and 199 ms, where the counter
is wide enough to tell them from less. -/
def Obligations.GuardBoundaryIsInclusive : Prop :=
  ∀ (b : Button) (s : State), s.Live → s.pending b = true → s.digit.toNat ≤ 9 →
    (200 ≤ ((s.nowMs : Int) - s.last b) % 2 ^ s.cfg.tickWidth →
      ∃ t, exec (handlerOf b) s = .next t ∧ t.Live ∧ t.last b = s.nowMs ∧ t.digit = stepDigit b s.digit) ∧
    (((s.nowMs : Int) - s.last b) % 2 ^ s.cfg.tickWidth < 200 →
      ∃ t, exec (handlerOf b) s = .next t ∧ t.Live ∧ t.last b = s.last b ∧ t.digit = s.digit ∧ t.out = s.out) ∧
    (200 < 2 ^ s.cfg.tickWidth →
      (s.nowMs = (s.last b + 200) % 2 ^ s.cfg.tickWidth → s.acceptsNow b) ∧
      (s.nowMs = (s.last b + 199) % 2 ^ s.cfg.tickWidth → ¬ s.acceptsNow b))

/-- R146: the window is measured modulo 2^W_TICK, so rightly across the wrap of `now_ms`: where `now_ms` is `e` milliseconds
after the last accepted event, the event is accepted exactly where `e` modulo 2^W_TICK is 200 or more. The two examples of the
rule are at W_TICK = 32: 200 ms across the wrap, and 2^32 + 100 ms. -/
def Obligations.GuardMeasuresElapsedModulo : Prop :=
  (∀ (b : Button) (s : State) (e : Nat), s.Live → s.pending b = true → s.digit.toNat ≤ 9 →
    s.nowMs = (s.last b + e) % 2 ^ s.cfg.tickWidth →
    (200 ≤ e % 2 ^ s.cfg.tickWidth → ∃ t, exec (handlerOf b) s = .next t ∧ t.Live ∧ t.last b = s.nowMs ∧
      t.digit = stepDigit b s.digit) ∧
    (e % 2 ^ s.cfg.tickWidth < 200 → exec (handlerOf b) s = .next (s.setPending b false))) ∧
  (∀ (b : Button) (s : State), s.Live → s.pending b = true → s.cfg.tickWidth = 32 →
    (s.last b = 0xFFFFFF9C → s.nowMs = 0x00000064 → s.acceptsNow b) ∧
    (s.nowMs = (s.last b + (2 ^ 32 + 100)) % 2 ^ 32 → ¬ s.acceptsNow b))

/-- R35: what ISR_INC does neither depends on `last_dec` nor changes it, and the reverse: changing the other button's timestamp
before the step changes the answer in that timestamp alone. -/
def Obligations.GuardWindowsAreIndependent : Prop :=
  ∀ (s : State) (x : Nat),
    (∀ t, exec .isrInc s = .next t → t.lastDec = s.lastDec ∧
      exec .isrInc { s with lastDec := x } = .next { t with lastDec := x }) ∧
    (∀ t, exec .isrDec s = .next t → t.lastInc = s.lastInc ∧
      exec .isrDec { s with lastInc := x } = .next { t with lastInc := x })

/-- R151: `digit` never leaves 0..9 and never wraps, and only the listed operations write it. -/
def Obligations.DigitClampsAndNeverWraps : Prop :=
  ∀ (i : Instr) (s t : State), exec i s = .next t →
    (t.digit = s.digit ∨
     (i = .isrInc ∧ s.digit.toNat < 9 ∧ t.digit.toNat = s.digit.toNat + 1) ∨
     (i = .isrDec ∧ 0 < s.digit.toNat ∧ t.digit.toNat + 1 = s.digit.toNat) ∨
     (i = .reset ∧ t.digit = 0#4)) ∧
    (s.digit.toNat ≤ 9 → t.digit.toNat ≤ 9)

/-- R152: from `digit = k`, an accepted ISR_INC gives min(k + 1, 9) and an accepted ISR_DEC gives max(k - 1, 0). -/
def Obligations.AcceptedEventMovesDigitByOne : Prop :=
  ∀ s : State, s.digit.toNat ≤ 9 →
    (s.acceptsNow .inc → ∃ t, exec .isrInc s = .next t ∧ t.Live ∧ t.digit.toNat = min (s.digit.toNat + 1) 9) ∧
    (s.acceptsNow .dec → ∃ t, exec .isrDec s = .next t ∧ t.Live ∧ t.digit.toNat = s.digit.toNat - 1)

/-- R153: two accepted events of one button, with no RESET and fewer than 2^W_TICK ticks between them, are at least 200 ms apart;
an accepted increment and an accepted decrement need not be. -/
def Obligations.AcceptedEventsAreSpaced : Prop :=
  (∀ (b : Button) (s s1 s2 : State) (is : List Instr), s.acceptsNow b → exec (handlerOf b) s = .next s1 →
    runOps is s1 = .next s2 → .reset ∉ is → is.count .tick < 2 ^ s.cfg.tickWidth → s2.acceptsNow b →
    200 ≤ ((s2.nowMs : Int) - s.nowMs) % 2 ^ s.cfg.tickWidth ∧ 200 ≤ is.count .tick) ∧
  ∃ s s1 : State, s.acceptsNow .inc ∧ exec .isrInc s = .next s1 ∧ s1.acceptsNow .dec

/-- R145, R264: in the first 199 ms after RESET no event is accepted, and `digit` stays 0. -/
def Obligations.NoEventInFirst199Ms : Prop :=
  ∀ (s s1 t : State) (is : List Instr), exec .reset s = .next s1 → runOps is s1 = .next t → is.count .tick ≤ 199 →
    (∀ b, ¬ t.acceptsNow b) ∧ t.digit = 0#4

/-- R232: with both handlers enabled and both events accepted at `digit = 9`, the two orders give 8 and 9. -/
def Obligations.HandlerOrderMatters : Prop :=
  ∀ s : State, s.acceptsNow .inc → s.acceptsNow .dec → s.digit = 9#4 →
    (∃ t, runOps [.isrInc, .isrDec] s = .next t ∧ t.Live ∧ t.digit = 8#4) ∧
    (∃ t, runOps [.isrDec, .isrInc] s = .next t ∧ t.Live ∧ t.digit = 9#4)

/-! ### The Segment Encoder -/

/-- R124: ROM_GPIO d, in the contract and out of it. -/
def Obligations.RomGpioResult : Prop :=
  ∀ d : Digit, decode (0x4#4 ++ d) = .ok (.romGpio d) ∧
    ∀ s : State, s.Live →
      (d.toNat ≤ 9 → exec (.romGpio d) s = .next { s with romQ := some (romGpioEntry s.cfg d) }) ∧
      (9 < d.toNat → exec (.romGpio d) s = .next { s with fault := [.range d] })

/-- R127: ROM_SR d, in the contract and out of it; the bit of the decimal point (QH under the reference map) is 0 in every
entry. -/
def Obligations.RomSrResult : Prop :=
  ∀ d : Digit, decode (0x5#4 ++ d) = .ok (.romSr d) ∧
    ∀ s : State, s.Live →
      (d.toNat ≤ 9 → exec (.romSr d) s = .next { s with romQ := some (0#8 ++ romSrEntry s.cfg d) }) ∧
      (s.cfg.WellFormed → d.toNat ≤ 9 → (romSrEntry s.cfg d).getLsbD (s.cfg.segQbit.pos .dp) = false) ∧
      (9 < d.toNat → exec (.romSr d) s = .next { s with fault := [.range d] })

/-- R14, R92, R93: for every admissible choice of the parameters, a bit of an entry is set exactly where it is the bit of a
segment that FONT lights. -/
def Obligations.RomEntriesFollowFont : Prop :=
  ∀ (c : Config) (d : Digit), c.WellFormed → d.toNat ≤ 9 →
    (∀ sg, (romGpioEntry c d).getLsbD (c.segPin.pos sg) = decide (sg ∈ c.fontAt d)) ∧
    (∀ i, (romGpioEntry c d).getLsbD i = true → ∃ sg ∈ c.fontAt d, c.segPin.pos sg = i) ∧
    (∀ sg, (romSrEntry c d).getLsbD (c.segQbit.pos sg) = decide (sg ∈ c.fontAt d)) ∧
    (∀ i, (romSrEntry c d).getLsbD i = true → ∃ sg ∈ c.fontAt d, c.segQbit.pos sg = i)

/-- R103 (with R122, R126, R129): the constraints on the tables hold for every admissible choice of the parameters. -/
def Obligations.TablesMeetTheirConstraints : Prop :=
  ∀ c : Config, c.WellFormed →
    (∀ d : Digit, d.toNat ≤ 9 →
      romGpioEntry c d &&& ~~~ segLineMask c = 0 ∧
      (romGpioEntry c d).getLsbD (c.segPin.pos .dp) = false ∧ (romSrEntry c d).getLsbD (c.segQbit.pos .dp) = false) ∧
    romGpioEntry c 1#4 = 0x0600#16 ∧ romSrEntry c 1#4 = 0x03#8

/-- R130: the two ROMs light the same segments, and the same number of them, for every admissible choice of the parameters. -/
def Obligations.RomsEncodeTheSameFont : Prop :=
  ∀ (c : Config) (d : Digit), c.WellFormed → d.toNat ≤ 9 →
    (∀ sg, (romGpioEntry c d).getLsbD (c.segPin.pos sg) = (romSrEntry c d).getLsbD (c.segQbit.pos sg)) ∧
    (List.range 16).countP (romGpioEntry c d).getLsbD = (List.range 8).countP (romSrEntry c d).getLsbD

/-- R123: both ROMs under the reference parameters. -/
def Obligations.ReferenceRomContents : Prop :=
  (List.range 10).map (fun d => romGpioEntry referenceConfig (BitVec.ofNat 4 d)) =
    [0x3F00#16, 0x0600#16, 0x5B00#16, 0x4F00#16, 0x6600#16, 0x6D00#16, 0x7D00#16, 0x0700#16, 0x7F00#16, 0x6F00#16] ∧
  (List.range 10).map (fun d => romSrEntry referenceConfig (BitVec.ofNat 4 d)) =
    [0x5F#8, 0x03#8, 0x6D#8, 0x67#8, 0x33#8, 0x76#8, 0x7E#8, 0x43#8, 0x7F#8, 0x77#8]

/-- R120, R125, R128, R131: `encode` reads the ROM of the variant, without an error for any digit in 0..9. -/
def Obligations.EncodeReadsTheVariantsRom : Prop :=
  ∀ (c : Config) (d : Digit), d.toNat ≤ 9 →
    encodeDigit .direct c d = .ok (romGpioEntry c d) ∧ encodeDigit .serial c d = .ok (0#8 ++ romSrEntry c d)

/-! ### The Direct-Line Driver -/

/-- R171: PRESENT_DIRECT d in both variants, in the contract and out of it; F_VARIANT before F_RANGE (R228). -/
def Obligations.PresentDirectResult : Prop :=
  ∀ d : Digit, decode (0x6#4 ++ d) = .ok (.presentDirect d) ∧
    ∀ s : State, s.Live →
      (∀ seg, s.out = .direct seg → d.toNat ≤ 9 → exec (.presentDirect d) s =
        .next { s with out := .direct ((seg &&& ~~~ segLineMask s.cfg) ||| romGpioEntry s.cfg d) }) ∧
      (∀ seg, s.out = .direct seg → 9 < d.toNat → exec (.presentDirect d) s = .next { s with fault := [.range d] }) ∧
      (∀ ser, s.out = .serial ser → exec (.presentDirect d) s = .next { s with fault := [.variant (0x6#4 ++ d)] })

/-- R76, R172, R173, R174: the batched write leaves every bit outside SEG_LINE_MASK, sets the line of each present segment to
whether FONT lights it, and done again changes nothing. -/
def Obligations.BatchedWriteDrivesOnlySegmentLines : Prop :=
  ∀ (s : State) (seg : PortWord) (d : Digit), s.Live → s.cfg.WellFormed → s.out = .direct seg → d.toNat ≤ 9 →
    ∃ t seg', exec (.presentDirect d) s = .next t ∧ t.out = .direct seg' ∧
      (∀ i, (∀ sg ∈ s.cfg.segments, s.cfg.segPin.pos sg ≠ i) → seg'.getLsbD i = seg.getLsbD i) ∧
      (∀ sg ∈ s.cfg.segments, seg'.getLsbD (s.cfg.segPin.pos sg) = decide (sg ∈ s.cfg.fontAt d)) ∧
      exec (.presentDirect d) t = .next t

/-- R12: SEG_LINE_MASK holds the lines of the present segments; 0x7F00 under the reference parameters. -/
def Obligations.SegLineMaskIsPresentSegments : Prop :=
  (∀ (c : Config) (i : Nat), (segLineMask c).getLsbD i = true ↔ ∃ sg ∈ c.segments, c.segPin.pos sg = i) ∧
  segLineMask referenceConfig = 0x7F00#16

/-- R79(c), R149, R55: in variant DIRECT an accepted event shows the new digit in the same step. -/
def Obligations.DirectDisplayFollowsDigit : Prop :=
  ∀ (b : Button) (s : State) (seg : PortWord), s.Inv → s.acceptsNow b → s.out = .direct seg →
    ∃ t, exec (handlerOf b) s = .next t ∧ t.digit = stepDigit b s.digit ∧
      ∀ sg, sg ∈ t.display ↔ sg ∈ s.cfg.fontAt t.digit

/-! ### The Serial-Shift Driver -/

/-- R175: SR_SAMPLE, enabled, not enabled, and in the other variant. -/
def Obligations.SrSampleResult : Prop :=
  decode 0x70#8 = .ok .srSample ∧
  ∀ s : State, s.Live →
    (∀ ser, s.out = .serial ser → ser.phase = .idle → s.digit.toNat ≤ 9 → exec .srSample s = .next
      { s with out := .serial { ser with byte := some (romSrEntry s.cfg s.digit), count := 0, phase := .shift } }) ∧
    (∀ ser, s.out = .serial ser → ser.phase ≠ .idle → exec .srSample s = .next
      { s with fault := [.seqSerializer 0x70#8 ser.phase ser.count] }) ∧
    (∀ seg, s.out = .direct seg → exec .srSample s = .next { s with fault := [.variant 0x70#8] })

/-- R177: SR_SHIFT, enabled, not enabled, and in the other variant. -/
def Obligations.SrShiftResult : Prop :=
  decode 0x80#8 = .ok .srShift ∧
  ∀ s : State, s.Live →
    (∀ ser b, s.out = .serial ser → ser.phase = .shift → ser.count.val < 8 → ser.byte = some b →
      ∀ v, v = (ser.shiftStage <<< 1) ||| (if b.getLsbD (7 - ser.count.val) then 1#8 else 0#8) →
        exec .srShift s = .next
          { s with out := .serial { ser with shiftStage := v, count := ser.count + 1 } }) ∧
    (∀ ser, s.out = .serial ser → ¬ (ser.phase = .shift ∧ ser.count.val < 8) → exec .srShift s = .next
      { s with fault := [.seqSerializer 0x80#8 ser.phase ser.count] }) ∧
    (∀ seg, s.out = .direct seg → exec .srShift s = .next { s with fault := [.variant 0x80#8] })

/-- R178: after k shifts of a refresh the low k bits of `sr_shift` are the top k bits of the byte; after eight, `sr_shift` is
the byte; nothing else but `ser_count` changes. -/
def Obligations.EightShiftsLoadTheByte : Prop :=
  ∀ (s : State) (ser : Serial) (b : SrWord) (k : Fin 9), s.Live → s.out = .serial ser → ser.phase = .shift →
    ser.count = 0 → ser.byte = some b →
    ∃ v : SrWord, runOps (List.replicate k.val .srShift) s =
        .next { s with out := .serial { ser with shiftStage := v, count := k } } ∧
      (∀ j, j < k.val → v.getLsbD j = b.getLsbD (8 - k.val + j)) ∧ (k = 8 → v = b)

/-- R180: LATCH_SET, enabled, not enabled, and in the other variant. -/
def Obligations.LatchSetResult : Prop :=
  decode 0x90#8 = .ok .latchSet ∧
  ∀ s : State, s.Live →
    (∀ ser, s.out = .serial ser → ser.phase = .shift → ser.count.val = 8 → exec .latchSet s = .next
      { s with out := .serial { ser with latchLine := true, store := ser.shiftStage, phase := .latchHigh } }) ∧
    (∀ ser, s.out = .serial ser → ¬ (ser.phase = .shift ∧ ser.count.val = 8) → exec .latchSet s = .next
      { s with fault := [.seqSerializer 0x90#8 ser.phase ser.count] }) ∧
    (∀ seg, s.out = .direct seg → exec .latchSet s = .next { s with fault := [.variant 0x90#8] })

/-- R182: LATCH_CLEAR, enabled, not enabled, and in the other variant. -/
def Obligations.LatchClearResult : Prop :=
  decode 0xA0#8 = .ok .latchClear ∧
  ∀ s : State, s.Live →
    (∀ ser, s.out = .serial ser → ser.phase = .latchHigh → exec .latchClear s = .next
      { s with out := .serial { ser with latchLine := false, phase := .idle } }) ∧
    (∀ ser, s.out = .serial ser → ser.phase ≠ .latchHigh → exec .latchClear s = .next
      { s with fault := [.seqSerializer 0xA0#8 ser.phase ser.count] }) ∧
    (∀ seg, s.out = .direct seg → exec .latchClear s = .next { s with fault := [.variant 0xA0#8] })

/-- R44, R179: in variant SERIAL no operation but LATCH_SET and RESET changes the parallel outputs or the display. -/
def Obligations.OutputsChangeOnlyAtLatch : Prop :=
  ∀ (i : Instr) (s t : State), s.variant = .serial → exec i s = .next t → i ≠ .latchSet → i ≠ .reset →
    t.display = s.display ∧ ∀ k, t.parallelOut k = s.parallelOut k

/-- R184, R85: a refresh commits the entry of the digit its SR_SAMPLE read, and shows that digit, whatever steps of other agents
interleave with it; and run alone it completes. -/
def Obligations.RefreshShowsTheSampledDigit : Prop :=
  ∀ (s : State) (ser : Serial), s.Inv → s.Live → s.out = .serial ser → ser.phase = .idle →
    (∃ t, runOps refreshOps s = .next t ∧ t.Live) ∧
    ∀ (is : List Instr) (t : State),
      is.filter isMainTaskOp = List.replicate 8 .srShift ++ [.latchSet, .latchClear] → .reset ∉ is →
      runOps (.srSample :: is) s = .next t →
      ∃ ser', t.out = .serial ser' ∧ ser'.store = romSrEntry s.cfg s.digit ∧ ser'.latchLine = false ∧
        ser'.phase = .idle ∧ ∀ sg, sg ∈ t.display ↔ sg ∈ s.cfg.fontAt s.digit

/-- R176, R185: the main task's loop, run any number of turns without a handler step, completes and keeps showing the digit. -/
def Obligations.MainLoopShowsTheDigit : Prop :=
  ∀ (n : Nat) (s : State) (ser : Serial), s.Inv → s.Live → s.out = .serial ser → ser.phase = .idle →
    ∃ t ser', runOps (mainLoop (n + 1)) s = .next t ∧ t.Live ∧ t.digit = s.digit ∧ t.out = .serial ser' ∧
      ser'.phase = .idle ∧ ser'.store = romSrEntry s.cfg s.digit ∧ ∀ sg, sg ∈ t.display ↔ sg ∈ s.cfg.fontAt s.digit

/-- R45, R94: the latch line is high exactly in the phase LATCH_HIGH, and the bit on the link during the shift after k bits is
bit 7 - k of the byte. -/
def Obligations.LatchLineAndLinkLevels : Prop :=
  ∀ (s : State) (ser : Serial), s.Inv → s.out = .serial ser →
    s.latchLevel = some (decide (ser.phase = .latchHigh)) ∧
    (∀ b, ser.byte = some b → ser.phase = .shift → ser.count.val < 8 →
      s.linkBit = some (b.getLsbD (7 - ser.count.val)))

/-- R56, R122: once a refresh is complete, the output of the decimal point is low. -/
def Obligations.DecimalPointOutputIsLow : Prop :=
  ∀ (s : State) (ser : Serial), s.Inv → s.out = .serial ser → ser.phase = .idle → ser.byte ≠ none →
    ser.store.getLsbD (s.cfg.segQbit.pos .dp) = false ∧ .dp ∉ s.display

/-! ### Faults -/

/-- R221: raising a fault adds one record and changes nothing else; from a state that holds one, no operation and no step has
a next state, RESET included. -/
def Obligations.FaultRecordsThenStops : Prop :=
  (∀ (i : Instr) (s t : State), exec i s = .next t → ¬ t.Live → ∃ r, t = { s with fault := [r] }) ∧
  (∀ s : State, s.fault ≠ [] → step s = .fault .faulted ∧ ∀ i, exec i s = .fault .faulted)

/-- R225: a word that decodes to RESERVED sets `refused` and changes no other state; from then on no operation and no step has
a next state. -/
def Obligations.RefusalStops : Prop :=
  (∀ (s : State) (w : Word) (rest : List Word), s.Live → s.stream = w :: rest → decode w = .error .reservedWord →
    step s = .next { s with stream := rest, refused := true }) ∧
  ∀ s : State, s.fault = [] → s.refused = true →
    step s = .fault .refusedBefore ∧ ∀ i, exec i s = .fault .refusedBefore

/-- R222: F_RANGE has code 1 and the operand as info, and is raised by exactly the three test-port operations with an operand in
10..15. -/
def Obligations.RangeFaultExactly : Prop :=
  ∀ (i : Instr) (s : State) (d : Digit), s.Live → s.digit.toNat ≤ 9 →
    FaultRecord.code (.range d) = 1 ∧
    (exec i s = .next { s with fault := [.range d] } ↔
      (9 < d.toNat ∧ (i = .romGpio d ∨ i = .romSr d ∨ (i = .presentDirect d ∧ s.variant = .direct))))

/-- R223: F_VARIANT has code 2 and the operation word as info, and is raised by exactly the operations of the absent variant. -/
def Obligations.VariantFaultExactly : Prop :=
  ∀ (i : Instr) (s : State) (w : Word), s.Live →
    FaultRecord.code (.variant w) = 2 ∧
    (exec i s = .next { s with fault := [.variant w] } ↔
      (w = encode i ∧ ((s.variant = .serial ∧ ∃ d, i = .presentDirect d) ∨
        (s.variant = .direct ∧ (i = .srSample ∨ i = .srShift ∨ i = .latchSet ∨ i = .latchClear)))))

/-- R224: F_SEQ has code 3, and is raised by exactly the operations whose enabling condition does not hold, with their word and
what the condition reads as info. -/
def Obligations.SequenceFaultExactly : Prop :=
  ∀ (i : Instr) (s : State) (r : FaultRecord), s.Live →
    ((r.code = 3 ∧ exec i s = .next { s with fault := [r] }) ↔
      ((i = .isrInc ∧ s.pendInc = false ∧ r = .seqHandler 0x30#8 false) ∨
       (i = .isrDec ∧ s.pendDec = false ∧ r = .seqHandler 0x31#8 false) ∨
       ∃ ser, s.out = .serial ser ∧
         ((i = .srSample ∧ ser.phase ≠ .idle ∧ r = .seqSerializer 0x70#8 ser.phase ser.count) ∨
          (i = .srShift ∧ (ser.phase ≠ .shift ∨ ser.count.val = 8) ∧ r = .seqSerializer 0x80#8 ser.phase ser.count) ∨
          (i = .latchSet ∧ ¬ (ser.phase = .shift ∧ ser.count.val = 8) ∧
            r = .seqSerializer 0x90#8 ser.phase ser.count) ∨
          (i = .latchClear ∧ ser.phase ≠ .latchHigh ∧ r = .seqSerializer 0xA0#8 ser.phase ser.count))))
end

