-- ==== Sys2Proof/Laws/State.lean ====
section
/-! SUPPORT. One lemma per field per named update of the state, so that no later proof unfolds a record update. -/

namespace Sys2Proof.Machine.State

/-! ### addFault -/

@[simp] theorem addFault_digit (s : State) (r : FaultRecord) : (s.addFault r).digit = s.digit := rfl

@[simp] theorem addFault_lastInc (s : State) (r : FaultRecord) : (s.addFault r).lastInc = s.lastInc := rfl

@[simp] theorem addFault_lastDec (s : State) (r : FaultRecord) : (s.addFault r).lastDec = s.lastDec := rfl

@[simp] theorem addFault_nowMs (s : State) (r : FaultRecord) : (s.addFault r).nowMs = s.nowMs := rfl

@[simp] theorem addFault_pendInc (s : State) (r : FaultRecord) : (s.addFault r).pendInc = s.pendInc := rfl

@[simp] theorem addFault_pendDec (s : State) (r : FaultRecord) : (s.addFault r).pendDec = s.pendDec := rfl

@[simp] theorem addFault_out (s : State) (r : FaultRecord) : (s.addFault r).out = s.out := rfl

@[simp] theorem addFault_romQ (s : State) (r : FaultRecord) : (s.addFault r).romQ = s.romQ := rfl

@[simp] theorem addFault_fault (s : State) (r : FaultRecord) : (s.addFault r).fault = insertRecord r s.fault := rfl

@[simp] theorem addFault_refused (s : State) (r : FaultRecord) : (s.addFault r).refused = s.refused := rfl

@[simp] theorem addFault_cfg (s : State) (r : FaultRecord) : (s.addFault r).cfg = s.cfg := rfl

@[simp] theorem addFault_stream (s : State) (r : FaultRecord) : (s.addFault r).stream = s.stream := rfl

@[simp] theorem addFault_draws (s : State) (r : FaultRecord) : (s.addFault r).draws = s.draws := rfl

/-! ### setRefused -/

@[simp] theorem setRefused_digit (s : State) : (s.setRefused).digit = s.digit := rfl

@[simp] theorem setRefused_lastInc (s : State) : (s.setRefused).lastInc = s.lastInc := rfl

@[simp] theorem setRefused_lastDec (s : State) : (s.setRefused).lastDec = s.lastDec := rfl

@[simp] theorem setRefused_nowMs (s : State) : (s.setRefused).nowMs = s.nowMs := rfl

@[simp] theorem setRefused_pendInc (s : State) : (s.setRefused).pendInc = s.pendInc := rfl

@[simp] theorem setRefused_pendDec (s : State) : (s.setRefused).pendDec = s.pendDec := rfl

@[simp] theorem setRefused_out (s : State) : (s.setRefused).out = s.out := rfl

@[simp] theorem setRefused_romQ (s : State) : (s.setRefused).romQ = s.romQ := rfl

@[simp] theorem setRefused_fault (s : State) : (s.setRefused).fault = s.fault := rfl

@[simp] theorem setRefused_refused (s : State) : (s.setRefused).refused = true := rfl

@[simp] theorem setRefused_cfg (s : State) : (s.setRefused).cfg = s.cfg := rfl

@[simp] theorem setRefused_stream (s : State) : (s.setRefused).stream = s.stream := rfl

@[simp] theorem setRefused_draws (s : State) : (s.setRefused).draws = s.draws := rfl

/-! ### setOut -/

@[simp] theorem setOut_digit (s : State) (o : OutputStage) : (s.setOut o).digit = s.digit := rfl

@[simp] theorem setOut_lastInc (s : State) (o : OutputStage) : (s.setOut o).lastInc = s.lastInc := rfl

@[simp] theorem setOut_lastDec (s : State) (o : OutputStage) : (s.setOut o).lastDec = s.lastDec := rfl

@[simp] theorem setOut_nowMs (s : State) (o : OutputStage) : (s.setOut o).nowMs = s.nowMs := rfl

@[simp] theorem setOut_pendInc (s : State) (o : OutputStage) : (s.setOut o).pendInc = s.pendInc := rfl

@[simp] theorem setOut_pendDec (s : State) (o : OutputStage) : (s.setOut o).pendDec = s.pendDec := rfl

@[simp] theorem setOut_out (s : State) (o : OutputStage) : (s.setOut o).out = o := rfl

@[simp] theorem setOut_romQ (s : State) (o : OutputStage) : (s.setOut o).romQ = s.romQ := rfl

@[simp] theorem setOut_fault (s : State) (o : OutputStage) : (s.setOut o).fault = s.fault := rfl

@[simp] theorem setOut_refused (s : State) (o : OutputStage) : (s.setOut o).refused = s.refused := rfl

@[simp] theorem setOut_cfg (s : State) (o : OutputStage) : (s.setOut o).cfg = s.cfg := rfl

@[simp] theorem setOut_stream (s : State) (o : OutputStage) : (s.setOut o).stream = s.stream := rfl

@[simp] theorem setOut_draws (s : State) (o : OutputStage) : (s.setOut o).draws = s.draws := rfl

/-! ### tookDraw -/

@[simp] theorem tookDraw_digit (s : State) : (s.tookDraw).digit = s.digit := rfl

@[simp] theorem tookDraw_lastInc (s : State) : (s.tookDraw).lastInc = s.lastInc := rfl

@[simp] theorem tookDraw_lastDec (s : State) : (s.tookDraw).lastDec = s.lastDec := rfl

@[simp] theorem tookDraw_nowMs (s : State) : (s.tookDraw).nowMs = s.nowMs := rfl

@[simp] theorem tookDraw_pendInc (s : State) : (s.tookDraw).pendInc = s.pendInc := rfl

@[simp] theorem tookDraw_pendDec (s : State) : (s.tookDraw).pendDec = s.pendDec := rfl

@[simp] theorem tookDraw_out (s : State) : (s.tookDraw).out = s.out := rfl

@[simp] theorem tookDraw_romQ (s : State) : (s.tookDraw).romQ = s.romQ := rfl

@[simp] theorem tookDraw_fault (s : State) : (s.tookDraw).fault = s.fault := rfl

@[simp] theorem tookDraw_refused (s : State) : (s.tookDraw).refused = s.refused := rfl

@[simp] theorem tookDraw_cfg (s : State) : (s.tookDraw).cfg = s.cfg := rfl

@[simp] theorem tookDraw_stream (s : State) : (s.tookDraw).stream = s.stream := rfl

@[simp] theorem tookDraw_draws (s : State) : (s.tookDraw).draws = s.draws + 1 := rfl

/-! ### setDigit -/

@[simp] theorem setDigit_digit (s : State) (d : Digit) : (s.setDigit d).digit = d := rfl

@[simp] theorem setDigit_lastInc (s : State) (d : Digit) : (s.setDigit d).lastInc = s.lastInc := rfl

@[simp] theorem setDigit_lastDec (s : State) (d : Digit) : (s.setDigit d).lastDec = s.lastDec := rfl

@[simp] theorem setDigit_nowMs (s : State) (d : Digit) : (s.setDigit d).nowMs = s.nowMs := rfl

@[simp] theorem setDigit_pendInc (s : State) (d : Digit) : (s.setDigit d).pendInc = s.pendInc := rfl

@[simp] theorem setDigit_pendDec (s : State) (d : Digit) : (s.setDigit d).pendDec = s.pendDec := rfl

@[simp] theorem setDigit_out (s : State) (d : Digit) : (s.setDigit d).out = s.out := rfl

@[simp] theorem setDigit_romQ (s : State) (d : Digit) : (s.setDigit d).romQ = s.romQ := rfl

@[simp] theorem setDigit_fault (s : State) (d : Digit) : (s.setDigit d).fault = s.fault := rfl

@[simp] theorem setDigit_refused (s : State) (d : Digit) : (s.setDigit d).refused = s.refused := rfl

@[simp] theorem setDigit_cfg (s : State) (d : Digit) : (s.setDigit d).cfg = s.cfg := rfl

@[simp] theorem setDigit_stream (s : State) (d : Digit) : (s.setDigit d).stream = s.stream := rfl

@[simp] theorem setDigit_draws (s : State) (d : Digit) : (s.setDigit d).draws = s.draws := rfl

/-! ### setRomQ -/

@[simp] theorem setRomQ_digit (s : State) (v : BitVec 16) : (s.setRomQ v).digit = s.digit := rfl

@[simp] theorem setRomQ_lastInc (s : State) (v : BitVec 16) : (s.setRomQ v).lastInc = s.lastInc := rfl

@[simp] theorem setRomQ_lastDec (s : State) (v : BitVec 16) : (s.setRomQ v).lastDec = s.lastDec := rfl

@[simp] theorem setRomQ_nowMs (s : State) (v : BitVec 16) : (s.setRomQ v).nowMs = s.nowMs := rfl

@[simp] theorem setRomQ_pendInc (s : State) (v : BitVec 16) : (s.setRomQ v).pendInc = s.pendInc := rfl

@[simp] theorem setRomQ_pendDec (s : State) (v : BitVec 16) : (s.setRomQ v).pendDec = s.pendDec := rfl

@[simp] theorem setRomQ_out (s : State) (v : BitVec 16) : (s.setRomQ v).out = s.out := rfl

@[simp] theorem setRomQ_romQ (s : State) (v : BitVec 16) : (s.setRomQ v).romQ = some v := rfl

@[simp] theorem setRomQ_fault (s : State) (v : BitVec 16) : (s.setRomQ v).fault = s.fault := rfl

@[simp] theorem setRomQ_refused (s : State) (v : BitVec 16) : (s.setRomQ v).refused = s.refused := rfl

@[simp] theorem setRomQ_cfg (s : State) (v : BitVec 16) : (s.setRomQ v).cfg = s.cfg := rfl

@[simp] theorem setRomQ_stream (s : State) (v : BitVec 16) : (s.setRomQ v).stream = s.stream := rfl

@[simp] theorem setRomQ_draws (s : State) (v : BitVec 16) : (s.setRomQ v).draws = s.draws := rfl

/-! ### ticked -/

@[simp] theorem ticked_digit (s : State) : (s.ticked).digit = s.digit := rfl

@[simp] theorem ticked_lastInc (s : State) : (s.ticked).lastInc = s.lastInc := rfl

@[simp] theorem ticked_lastDec (s : State) : (s.ticked).lastDec = s.lastDec := rfl

@[simp] theorem ticked_nowMs (s : State) : (s.ticked).nowMs = tickAdd s.cfg s.nowMs 1 := rfl

@[simp] theorem ticked_pendInc (s : State) : (s.ticked).pendInc = s.pendInc := rfl

@[simp] theorem ticked_pendDec (s : State) : (s.ticked).pendDec = s.pendDec := rfl

@[simp] theorem ticked_out (s : State) : (s.ticked).out = s.out := rfl

@[simp] theorem ticked_romQ (s : State) : (s.ticked).romQ = s.romQ := rfl

@[simp] theorem ticked_fault (s : State) : (s.ticked).fault = s.fault := rfl

@[simp] theorem ticked_refused (s : State) : (s.ticked).refused = s.refused := rfl

@[simp] theorem ticked_cfg (s : State) : (s.ticked).cfg = s.cfg := rfl

@[simp] theorem ticked_stream (s : State) : (s.ticked).stream = s.stream := rfl

@[simp] theorem ticked_draws (s : State) : (s.ticked).draws = s.draws := rfl

/-! ### setPending -/

@[simp] theorem setPending_digit (s : State) (b : Button) (v : Bool) : (s.setPending b v).digit = s.digit := by
  cases b <;> rfl

@[simp] theorem setPending_lastInc (s : State) (b : Button) (v : Bool) : (s.setPending b v).lastInc = s.lastInc := by
  cases b <;> rfl

@[simp] theorem setPending_lastDec (s : State) (b : Button) (v : Bool) : (s.setPending b v).lastDec = s.lastDec := by
  cases b <;> rfl

@[simp] theorem setPending_nowMs (s : State) (b : Button) (v : Bool) : (s.setPending b v).nowMs = s.nowMs := by
  cases b <;> rfl

@[simp] theorem setPending_out (s : State) (b : Button) (v : Bool) : (s.setPending b v).out = s.out := by
  cases b <;> rfl

@[simp] theorem setPending_romQ (s : State) (b : Button) (v : Bool) : (s.setPending b v).romQ = s.romQ := by
  cases b <;> rfl

@[simp] theorem setPending_fault (s : State) (b : Button) (v : Bool) : (s.setPending b v).fault = s.fault := by
  cases b <;> rfl

@[simp] theorem setPending_refused (s : State) (b : Button) (v : Bool) : (s.setPending b v).refused = s.refused := by
  cases b <;> rfl

@[simp] theorem setPending_cfg (s : State) (b : Button) (v : Bool) : (s.setPending b v).cfg = s.cfg := by
  cases b <;> rfl

@[simp] theorem setPending_stream (s : State) (b : Button) (v : Bool) : (s.setPending b v).stream = s.stream := by
  cases b <;> rfl

@[simp] theorem setPending_draws (s : State) (b : Button) (v : Bool) : (s.setPending b v).draws = s.draws := by
  cases b <;> rfl

/-! ### setLast -/

@[simp] theorem setLast_digit (s : State) (b : Button) (t : Nat) : (s.setLast b t).digit = s.digit := by
  cases b <;> rfl

@[simp] theorem setLast_nowMs (s : State) (b : Button) (t : Nat) : (s.setLast b t).nowMs = s.nowMs := by
  cases b <;> rfl

@[simp] theorem setLast_pendInc (s : State) (b : Button) (t : Nat) : (s.setLast b t).pendInc = s.pendInc := by
  cases b <;> rfl

@[simp] theorem setLast_pendDec (s : State) (b : Button) (t : Nat) : (s.setLast b t).pendDec = s.pendDec := by
  cases b <;> rfl

@[simp] theorem setLast_out (s : State) (b : Button) (t : Nat) : (s.setLast b t).out = s.out := by
  cases b <;> rfl

@[simp] theorem setLast_romQ (s : State) (b : Button) (t : Nat) : (s.setLast b t).romQ = s.romQ := by
  cases b <;> rfl

@[simp] theorem setLast_fault (s : State) (b : Button) (t : Nat) : (s.setLast b t).fault = s.fault := by
  cases b <;> rfl

@[simp] theorem setLast_refused (s : State) (b : Button) (t : Nat) : (s.setLast b t).refused = s.refused := by
  cases b <;> rfl

@[simp] theorem setLast_cfg (s : State) (b : Button) (t : Nat) : (s.setLast b t).cfg = s.cfg := by
  cases b <;> rfl

@[simp] theorem setLast_stream (s : State) (b : Button) (t : Nat) : (s.setLast b t).stream = s.stream := by
  cases b <;> rfl

@[simp] theorem setLast_draws (s : State) (b : Button) (t : Nat) : (s.setLast b t).draws = s.draws := by
  cases b <;> rfl

/-! ### a button's own fields -/

@[simp] theorem setPending_pending_self (s : State) (b : Button) (v : Bool) : (s.setPending b v).pending b = v := by
  cases b <;> rfl

@[simp] theorem setPending_pending_inc_dec (s : State) (v : Bool) : (s.setPending .inc v).pending .dec = s.pending .dec := rfl

@[simp] theorem setPending_pending_dec_inc (s : State) (v : Bool) : (s.setPending .dec v).pending .inc = s.pending .inc := rfl

@[simp] theorem setPending_last (s : State) (b c : Button) (v : Bool) : (s.setPending b v).last c = s.last c := by
  cases b <;> cases c <;> rfl

@[simp] theorem setLast_last_self (s : State) (b : Button) (t : Nat) : (s.setLast b t).last b = t := by
  cases b <;> rfl

@[simp] theorem setLast_last_inc_dec (s : State) (t : Nat) : (s.setLast .inc t).last .dec = s.last .dec := rfl

@[simp] theorem setLast_last_dec_inc (s : State) (t : Nat) : (s.setLast .dec t).last .inc = s.last .inc := rfl

@[simp] theorem setLast_pending (s : State) (b c : Button) (t : Nat) : (s.setLast b t).pending c = s.pending c := by
  cases b <;> cases c <;> rfl

@[simp] theorem setDigit_pending (s : State) (d : Digit) (c : Button) : (s.setDigit d).pending c = s.pending c := by
  cases c <;> rfl

@[simp] theorem setDigit_last (s : State) (d : Digit) (c : Button) : (s.setDigit d).last c = s.last c := by
  cases c <;> rfl

@[simp] theorem setOut_pending (s : State) (o : OutputStage) (c : Button) : (s.setOut o).pending c = s.pending c := by
  cases c <;> rfl

@[simp] theorem setOut_last (s : State) (o : OutputStage) (c : Button) : (s.setOut o).last c = s.last c := by
  cases c <;> rfl

/-! ### the next word -/

@[simp] theorem withFetchWord_stream (s : State) (n w : Nat) :
    (s.withFetchWord n w).stream = BitVec.ofNat 8 w :: s.stream := rfl

@[simp] theorem withProgram_stream (s : State) (ws : List Word) : (s.withProgram ws).stream = ws := rfl

/-! ### the writes of an accepted event -/

@[simp] theorem accepted_digit (s : State) (b : Button) : (s.accepted b).digit = stepDigit b s.digit := by
  cases b <;> rfl

@[simp] theorem accepted_nowMs (s : State) (b : Button) : (s.accepted b).nowMs = s.nowMs := by
  cases b <;> rfl

@[simp] theorem accepted_out (s : State) (b : Button) : (s.accepted b).out = s.out := by
  cases b <;> rfl

@[simp] theorem accepted_romQ (s : State) (b : Button) : (s.accepted b).romQ = s.romQ := by
  cases b <;> rfl

@[simp] theorem accepted_fault (s : State) (b : Button) : (s.accepted b).fault = s.fault := by
  cases b <;> rfl

@[simp] theorem accepted_refused (s : State) (b : Button) : (s.accepted b).refused = s.refused := by
  cases b <;> rfl

@[simp] theorem accepted_cfg (s : State) (b : Button) : (s.accepted b).cfg = s.cfg := by
  cases b <;> rfl

@[simp] theorem accepted_stream (s : State) (b : Button) : (s.accepted b).stream = s.stream := by
  cases b <;> rfl

@[simp] theorem accepted_draws (s : State) (b : Button) : (s.accepted b).draws = s.draws := by
  cases b <;> rfl

@[simp] theorem accepted_pending_self (s : State) (b : Button) : (s.accepted b).pending b = false := by
  cases b <;> rfl

@[simp] theorem accepted_last_self (s : State) (b : Button) : (s.accepted b).last b = s.nowMs := by
  cases b <;> rfl

/-! ### RESET -/

@[simp] theorem afterReset_digit (s : State) : s.afterReset.digit = 0#4 := rfl

@[simp] theorem afterReset_lastInc (s : State) : s.afterReset.lastInc = 0 := rfl

@[simp] theorem afterReset_lastDec (s : State) : s.afterReset.lastDec = 0 := rfl

@[simp] theorem afterReset_nowMs (s : State) : s.afterReset.nowMs = 0 := rfl

@[simp] theorem afterReset_pendInc (s : State) : s.afterReset.pendInc = false := rfl

@[simp] theorem afterReset_pendDec (s : State) : s.afterReset.pendDec = false := rfl

@[simp] theorem afterReset_out (s : State) : s.afterReset.out = s.out.afterReset s.cfg s.draws := rfl

@[simp] theorem afterReset_romQ (s : State) : s.afterReset.romQ = none := rfl

@[simp] theorem afterReset_fault (s : State) : s.afterReset.fault = s.fault := rfl

@[simp] theorem afterReset_refused (s : State) : s.afterReset.refused = s.refused := rfl

@[simp] theorem afterReset_cfg (s : State) : s.afterReset.cfg = s.cfg := rfl

@[simp] theorem afterReset_stream (s : State) : s.afterReset.stream = s.stream := rfl

@[simp] theorem afterReset_draws (s : State) : s.afterReset.draws = s.draws + 1 := rfl

end Sys2Proof.Machine.State
end

