-- ==== Sys2Proof/Laws/Ops.lean ====
section
/-! SUPPORT. One spec lemma per shared operation: what it answers, and, where it answers a next state, which one. -/

namespace Sys2Proof.Machine

/-! ### quiescence and faults -/

@[simp] theorem whenLive_of_live {s : State} (h : s.Live) (r : StepResult) : whenLive s r = r := by
  simp [whenLive, h.1, h.2]

theorem whenLive_of_faulted {s : State} (h : s.fault ≠ []) (r : StepResult) : whenLive s r = .fault .faulted := by
  simp [whenLive, h]

theorem whenLive_of_refused {s : State} (hf : s.fault = []) (h : s.refused = true) (r : StepResult) :
    whenLive s r = .fault .refusedBefore := by
  simp [whenLive, hf, h]

theorem whenLive_next {s t : State} {r : StepResult} : whenLive s r = .next t ↔ s.Live ∧ r = .next t := by
  unfold whenLive State.Live
  split
  · simp_all
  · split <;> simp_all

@[simp] theorem insertRecord_nil (r : FaultRecord) : insertRecord r [] = [r] := rfl

theorem addFault_of_live {s : State} (h : s.fault = []) (r : FaultRecord) : s.addFault r = { s with fault := [r] } := by
  simp [State.addFault, h]

theorem raiseFault_next {r : FaultRecord} {s t : State} : raiseFault r s = .next t ↔ t = s.addFault r := by
  simp [raiseFault, eq_comm]

theorem refuseWord_next {s t : State} : refuseWord s = .next t ↔ s.Live ∧ t = s.setRefused := by
  simp [refuseWord, whenLive_next, @eq_comm _ _ t]

theorem requires_next {p : Bool} {r : FaultRecord} {s t : State} {body : StepResult} :
    requires p r s body = .next t ↔ (p = true ∧ body = .next t) ∨ (p = false ∧ t = s.addFault r) := by
  cases p <;> simp [requires, raiseFault_next]

theorem onDirect_next {w : Word} {s t : State} {body : PortWord → StepResult} :
    onDirect w s body = .next t ↔
      (∃ seg, s.out = .direct seg ∧ body seg = .next t) ∨ (s.variant = .serial ∧ t = s.addFault (.variant w)) := by
  unfold onDirect State.variant
  cases s.out <;> simp [raiseFault_next]

theorem onSerial_next {w : Word} {s t : State} {body : Serial → StepResult} :
    onSerial w s body = .next t ↔
      (∃ ser, s.out = .serial ser ∧ body ser = .next t) ∨ (s.variant = .direct ∧ t = s.addFault (.variant w)) := by
  unfold onSerial State.variant
  cases s.out <;> simp [raiseFault_next]

theorem serializerOp_next {w : Word} {s t : State} {p : Serial → Bool} {f : Serial → Serial} :
    serializerOp w s p f = .next t ↔
      s.Live ∧ ((∃ ser, s.out = .serial ser ∧ p ser = true ∧ t = s.setOut (.serial (f ser))) ∨
        (∃ ser, s.out = .serial ser ∧ p ser = false ∧ t = s.addFault (.seqSerializer w ser.phase ser.count)) ∨
        (s.variant = .direct ∧ t = s.addFault (.variant w))) := by
  simp only [serializerOp, whenLive_next, onSerial_next, requires_next, Host.Outcome.next.injEq]
  constructor
  · rintro ⟨hl, ⟨ser, ho, ⟨hp, rfl⟩ | ⟨hp, rfl⟩⟩ | h⟩
    · exact ⟨hl, .inl ⟨ser, ho, hp, rfl⟩⟩
    · exact ⟨hl, .inr (.inl ⟨ser, ho, hp, rfl⟩)⟩
    · exact ⟨hl, .inr (.inr h)⟩
  · rintro ⟨hl, ⟨ser, ho, hp, rfl⟩ | ⟨ser, ho, hp, rfl⟩ | h⟩
    · exact ⟨hl, .inl ⟨ser, ho, .inl ⟨hp, rfl⟩⟩⟩
    · exact ⟨hl, .inl ⟨ser, ho, .inr ⟨hp, rfl⟩⟩⟩
    · exact ⟨hl, .inr h⟩

theorem variant_of_direct {s : State} {seg : PortWord} (h : s.out = .direct seg) : s.variant = .direct := by
  simp [State.variant, h]

theorem variant_of_serial {s : State} {ser : Serial} (h : s.out = .serial ser) : s.variant = .serial := by
  simp [State.variant, h]

/-! ### ROM reads -/

theorem romRead_ok {w : Nat} {table : Digit → BitVec w} {d : Digit} (h : d.toNat ≤ 9) :
    romRead table d = .ok (table d) := by
  simp [romRead, Nat.not_lt.mpr h]

theorem romRead_error {w : Nat} {table : Digit → BitVec w} {d : Digit} (h : 9 < d.toNat) :
    romRead table d = .error (.range d) := by
  simp [romRead, h]

theorem withRead_romRead_next {w : Nat} {table : Digit → BitVec w} {d : Digit} {s t : State} {k : BitVec w → State} :
    withRead (romRead table d) s k = .next t ↔
      (d.toNat ≤ 9 ∧ t = k (table d)) ∨ (9 < d.toNat ∧ t = s.addFault (.range d)) := by
  rcases Nat.lt_or_ge 9 d.toNat with h | h
  · simp [romRead_error h, withRead, raiseFault_next, h, Nat.not_le.mpr h]
  · simp [romRead_ok h, withRead, h, Nat.not_lt.mpr h, eq_comm]

theorem one_shiftLeft_getLsbD (w i j : Nat) (hi : i < w) : (1#w <<< j).getLsbD i = decide (i = j) := by
  rw [BitVec.getLsbD_shiftLeft, BitVec.getLsbD_one]
  simp only [hi, decide_true, Bool.true_and]
  by_cases hij : i = j
  · subst hij; simp; omega
  · by_cases hlt : i < j
    · simp [hlt, hij]
    · have hne : i - j ≠ 0 := by omega
      simp [hij, hne]

theorem orOfBits_foldl_getLsbD (w : Nat) (is : List Nat) (acc : BitVec w) (i : Nat) (hi : i < w) :
    (is.foldl (fun acc j => acc ||| (1#w <<< j)) acc).getLsbD i = (acc.getLsbD i || decide (i ∈ is)) := by
  induction is generalizing acc with
  | nil => simp
  | cons j js ih =>
    rw [List.foldl_cons, ih, BitVec.getLsbD_or, one_shiftLeft_getLsbD w i j hi, Bool.or_assoc]
    simp only [List.mem_cons, Bool.decide_or]

/-- Bit `i` of an OR of `1 << j` is set exactly where `i` is listed. -/
theorem orOfBits_getLsbD (w : Nat) (is : List Nat) (i : Nat) :
    (orOfBits w is).getLsbD i = decide (i < w ∧ i ∈ is) := by
  by_cases hi : i < w
  · rw [orOfBits, orOfBits_foldl_getLsbD w is 0#w i hi]
    simp [hi]
  · rw [BitVec.getLsbD_of_ge _ _ (Nat.not_lt.mp hi)]
    simp [hi]

/-! ### the tick -/

theorem tickModulus_pos (c : Config) : 0 < tickModulus c := Nat.two_pow_pos _

theorem tickAdd_lt (c : Config) (a b : Nat) : tickAdd c a b < 2 ^ c.tickWidth := Nat.mod_lt _ (tickModulus_pos c)

/-- The difference of two tick values as the spec writes it: the exact one, modulo 2^W_TICK. -/
theorem tickSub_cast (c : Config) (a b : Nat) : (tickSub c a b : Int) = ((a : Int) - b) % 2 ^ c.tickWidth := by
  have h : (tickModulus c : Int) ≠ 0 := by exact_mod_cast (tickModulus_pos c).ne'
  rw [tickSub, Int.toNat_of_nonneg (Int.emod_nonneg _ h)]
  simp [tickModulus]

/-- The value `e` milliseconds after another differs from it by `e`, modulo 2^W_TICK. -/
theorem tickSub_tickAdd (c : Config) (a e : Nat) : tickSub c (tickAdd c a e) a = e % 2 ^ c.tickWidth := by
  have h : ((tickAdd c a e : Nat) : Int) - a ≡ (e : Int) [ZMOD (tickModulus c : Int)] := by
    rw [tickAdd, Int.natCast_mod]
    exact ((Int.mod_modEq _ _).sub_right _).trans (by simp [Int.ModEq.refl])
  rw [tickSub, h.eq, ← Int.natCast_mod, Int.toNat_natCast, tickModulus]

/-- The guard comparison on the exact difference. -/
theorem accepts_iff (s : State) (b : Button) :
    s.accepts b = true ↔ 200 ≤ ((s.nowMs : Int) - s.last b) % 2 ^ s.cfg.tickWidth := by
  rw [State.accepts, decide_eq_true_iff, State.sinceLast, ← tickSub_cast]
  exact Int.ofNat_le.symm

/-! ### the handlers -/

theorem stepDigit_le {b : Button} {d : Digit} (h : d.toNat ≤ 9) : (stepDigit b d).toNat ≤ 9 := by
  revert h; cases b <;> revert d <;> decide

theorem acceptEvent_next {b : Button} {s t : State} :
    acceptEvent b s = .next t ↔
      (s.variant = .serial ∧ t = s.accepted b) ∨
      (∃ seg, s.out = .direct seg ∧ (stepDigit b s.digit).toNat ≤ 9 ∧
        t = (s.accepted b).setOut (.direct (driveLines s.cfg seg (romGpioEntry s.cfg (stepDigit b s.digit))))) ∨
      (s.variant = .direct ∧ 9 < (stepDigit b s.digit).toNat ∧ t = s.addFault (.range (stepDigit b s.digit))) := by
  unfold acceptEvent State.variant
  cases s.out with
  | serial ser => simp [eq_comm]
  | direct seg => simp [withRead_romRead_next]

/-- Everything a handler can do: record F_SEQ, clear its flag and discard, or accept. -/
theorem handler_next {b : Button} {w : Word} {s t : State} :
    handler b w s = .next t ↔
      s.Live ∧ ((s.pending b = false ∧ t = s.addFault (.seqHandler w false)) ∨
        (s.pending b = true ∧ s.accepts b = false ∧ t = s.setPending b false) ∨
        (s.pending b = true ∧ s.accepts b = true ∧ acceptEvent b s = .next t)) := by
  simp only [handler, whenLive_next, requires_next]
  cases s.pending b <;> cases s.accepts b <;> simp [eq_comm]

end Sys2Proof.Machine
end

