-- ==== Sys2Proof/Laws/Exec.lean ====
section
/-! SUPPORT. One inversion lemma per operation: the states it can answer, over the shared operations' spec lemmas. -/

namespace Sys2Proof.Machine

theorem execReset_next {s t : State} : execReset s = .next t ↔ s.Live ∧ t = s.afterReset := by
  simp [execReset, whenLive_next, @eq_comm _ _ t]

theorem execTick_next {s t : State} : execTick s = .next t ↔ s.Live ∧ t = s.ticked := by
  simp [execTick, whenLive_next, @eq_comm _ _ t]

theorem execEdgeInc_next {s t : State} : execEdgeInc s = .next t ↔ s.Live ∧ t = s.setPending .inc true := by
  simp [execEdgeInc, whenLive_next, @eq_comm _ _ t]

theorem execEdgeDec_next {s t : State} : execEdgeDec s = .next t ↔ s.Live ∧ t = s.setPending .dec true := by
  simp [execEdgeDec, whenLive_next, @eq_comm _ _ t]

theorem execRomGpio_next {d : Digit} {s t : State} :
    execRomGpio d s = .next t ↔
      s.Live ∧ ((d.toNat ≤ 9 ∧ t = s.setRomQ (romGpioEntry s.cfg d)) ∨ (9 < d.toNat ∧ t = s.addFault (.range d))) := by
  simp [execRomGpio, whenLive_next, withRead_romRead_next]

theorem execRomSr_next {d : Digit} {s t : State} :
    execRomSr d s = .next t ↔
      s.Live ∧ ((d.toNat ≤ 9 ∧ t = s.setRomQ ((romSrEntry s.cfg d).zeroExtend 16)) ∨
        (9 < d.toNat ∧ t = s.addFault (.range d))) := by
  simp [execRomSr, whenLive_next, withRead_romRead_next]

theorem execPresentDirect_next {d : Digit} {s t : State} :
    execPresentDirect d s = .next t ↔
      s.Live ∧ ((∃ seg, s.out = .direct seg ∧
          ((d.toNat ≤ 9 ∧ t = s.setOut (.direct (driveLines s.cfg seg (romGpioEntry s.cfg d)))) ∨
           (9 < d.toNat ∧ t = s.addFault (.range d)))) ∨
        (s.variant = .serial ∧ t = s.addFault (.variant (encode (.presentDirect d))))) := by
  simp [execPresentDirect, whenLive_next, onDirect_next, withRead_romRead_next]

theorem execSrSample_next {s t : State} :
    execSrSample s = .next t ↔
      s.Live ∧ ((∃ ser, s.out = .serial ser ∧
          ((ser.phase = .idle ∧
            ((s.digit.toNat ≤ 9 ∧ t = s.setOut (.serial (ser.sample (romSrEntry s.cfg s.digit)))) ∨
             (9 < s.digit.toNat ∧ t = s.addFault (.range s.digit)))) ∨
           (ser.phase ≠ .idle ∧ t = s.addFault (.seqSerializer (encode .srSample) ser.phase ser.count)))) ∨
        (s.variant = .direct ∧ t = s.addFault (.variant (encode .srSample)))) := by
  simp [execSrSample, whenLive_next, onSerial_next, requires_next, withRead_romRead_next]

/-- A next state of any operation comes from a live state. -/
theorem live_of_exec_next {i : Instr} {s t : State} (h : exec i s = .next t) : s.Live := by
  cases i with
  | reset => exact (execReset_next.mp h).1
  | tick => exact (execTick_next.mp h).1
  | edgeInc => exact (execEdgeInc_next.mp h).1
  | edgeDec => exact (execEdgeDec_next.mp h).1
  | isrInc => exact (handler_next.mp h).1
  | isrDec => exact (handler_next.mp h).1
  | romGpio d => exact (execRomGpio_next.mp h).1
  | romSr d => exact (execRomSr_next.mp h).1
  | presentDirect d => exact (execPresentDirect_next.mp h).1
  | srSample => exact (execSrSample_next.mp h).1
  | srShift => exact (serializerOp_next.mp h).1
  | latchSet => exact (serializerOp_next.mp h).1
  | latchClear => exact (serializerOp_next.mp h).1

/- The instruction of a handler's case is a variable with an equation, so that a case split on a given one is possible. -/

/-- The faults an operation raises in a state, with their info (R222-R224). -/
inductive Raises (s : State) : Instr → FaultRecord → Prop
  | handler (i : Instr) (b : Button) (hi : i = handlerOf b) (h : s.pending b = false) :
      Raises s i (.seqHandler (encode i) false)
  | refreshRange (i : Instr) (b : Button) (hi : i = handlerOf b) (hp : s.pending b = true) (ha : s.accepts b = true) (hv : s.variant = .direct)
      (hd : 9 < (stepDigit b s.digit).toNat) : Raises s i (.range (stepDigit b s.digit))
  | romGpio (d : Digit) (hd : 9 < d.toNat) : Raises s (.romGpio d) (.range d)
  | romSr (d : Digit) (hd : 9 < d.toNat) : Raises s (.romSr d) (.range d)
  | presentRange (d : Digit) (hv : s.variant = .direct) (hd : 9 < d.toNat) : Raises s (.presentDirect d) (.range d)
  | presentVariant (d : Digit) (hv : s.variant = .serial) :
      Raises s (.presentDirect d) (.variant (encode (.presentDirect d)))
  | mainVariant (i : Instr) (hi : isMainTaskOp i = true) (hv : s.variant = .direct) : Raises s i (.variant (encode i))
  | sampleSeq (ser : Serial) (ho : s.out = .serial ser) (hp : ser.phase ≠ .idle) :
      Raises s .srSample (.seqSerializer (encode .srSample) ser.phase ser.count)
  | sampleRange (ser : Serial) (ho : s.out = .serial ser) (hp : ser.phase = .idle) (hd : 9 < s.digit.toNat) :
      Raises s .srSample (.range s.digit)
  | shiftSeq (ser : Serial) (ho : s.out = .serial ser) (hp : ser.canShift = false) :
      Raises s .srShift (.seqSerializer (encode .srShift) ser.phase ser.count)
  | latchSetSeq (ser : Serial) (ho : s.out = .serial ser) (hp : ser.canLatch = false) :
      Raises s .latchSet (.seqSerializer (encode .latchSet) ser.phase ser.count)
  | latchClearSeq (ser : Serial) (ho : s.out = .serial ser) (hp : ser.phase ≠ .latchHigh) :
      Raises s .latchClear (.seqSerializer (encode .latchClear) ser.phase ser.count)

/-- Everything one operation can do in a live state: the state after it. -/
inductive Effect (s : State) : Instr → State → Prop
  | fault (i : Instr) (r : FaultRecord) (h : Raises s i r) : Effect s i (s.addFault r)
  | reset : Effect s .reset s.afterReset
  | tick : Effect s .tick s.ticked
  | edgeInc : Effect s .edgeInc (s.setPending .inc true)
  | edgeDec : Effect s .edgeDec (s.setPending .dec true)
  | discard (i : Instr) (b : Button) (hi : i = handlerOf b) (hp : s.pending b = true) (ha : s.accepts b = false) :
      Effect s i (s.setPending b false)
  | acceptSerial (i : Instr) (b : Button) (hi : i = handlerOf b) (hp : s.pending b = true) (ha : s.accepts b = true)
      (hv : s.variant = .serial) : Effect s i (s.accepted b)
  | acceptDirect (i : Instr) (b : Button) (hi : i = handlerOf b) (seg : PortWord) (hp : s.pending b = true)
      (ha : s.accepts b = true) (ho : s.out = .direct seg) (hd : (stepDigit b s.digit).toNat ≤ 9) :
      Effect s i
        ((s.accepted b).setOut (.direct (driveLines s.cfg seg (romGpioEntry s.cfg (stepDigit b s.digit)))))
  | romGpio (d : Digit) (hd : d.toNat ≤ 9) : Effect s (.romGpio d) (s.setRomQ (romGpioEntry s.cfg d))
  | romSr (d : Digit) (hd : d.toNat ≤ 9) : Effect s (.romSr d) (s.setRomQ ((romSrEntry s.cfg d).zeroExtend 16))
  | present (d : Digit) (seg : PortWord) (ho : s.out = .direct seg) (hd : d.toNat ≤ 9) :
      Effect s (.presentDirect d) (s.setOut (.direct (driveLines s.cfg seg (romGpioEntry s.cfg d))))
  | sample (ser : Serial) (ho : s.out = .serial ser) (hp : ser.phase = .idle) (hd : s.digit.toNat ≤ 9) :
      Effect s .srSample (s.setOut (.serial (ser.sample (romSrEntry s.cfg s.digit))))
  | shift (ser : Serial) (ho : s.out = .serial ser) (hp : ser.canShift = true) :
      Effect s .srShift (s.setOut (.serial (ser.shifted s.draws)))
  | latchSet (ser : Serial) (ho : s.out = .serial ser) (hp : ser.canLatch = true) :
      Effect s .latchSet (s.setOut (.serial ser.latched))
  | latchClear (ser : Serial) (ho : s.out = .serial ser) (hp : ser.phase = .latchHigh) :
      Effect s .latchClear (s.setOut (.serial ser.cleared))

theorem effect_of_handler {b : Button} {s t : State} (h : handler b (encode (handlerOf b)) s = .next t) :
    Effect s (handlerOf b) t := by
  obtain ⟨-, ⟨hp, rfl⟩ | ⟨hp, ha, rfl⟩ | ⟨hp, ha, hacc⟩⟩ := handler_next.mp h
  · exact .fault _ _ (.handler _ b rfl hp)
  · exact .discard _ b rfl hp ha
  · obtain ⟨hv, rfl⟩ | ⟨seg, ho, hd, rfl⟩ | ⟨hv, hd, rfl⟩ := acceptEvent_next.mp hacc
    · exact .acceptSerial _ b rfl hp ha hv
    · exact .acceptDirect _ b rfl seg hp ha ho hd
    · exact .fault _ _ (.refreshRange _ b rfl hp ha hv hd)

/-- The inversion of exec: a next state comes from a live state, by one of the listed effects. -/
theorem effect_of_exec {i : Instr} {s t : State} (h : exec i s = .next t) : s.Live ∧ Effect s i t := by
  refine ⟨live_of_exec_next h, ?_⟩
  cases i with
  | reset => obtain ⟨-, rfl⟩ := execReset_next.mp h; exact .reset
  | tick => obtain ⟨-, rfl⟩ := execTick_next.mp h; exact .tick
  | edgeInc => obtain ⟨-, rfl⟩ := execEdgeInc_next.mp h; exact .edgeInc
  | edgeDec => obtain ⟨-, rfl⟩ := execEdgeDec_next.mp h; exact .edgeDec
  | isrInc => exact effect_of_handler (b := .inc) h
  | isrDec => exact effect_of_handler (b := .dec) h
  | romGpio d =>
    obtain ⟨-, ⟨hd, rfl⟩ | ⟨hd, rfl⟩⟩ := execRomGpio_next.mp h
    · exact .romGpio d hd
    · exact .fault _ _ (.romGpio d hd)
  | romSr d =>
    obtain ⟨-, ⟨hd, rfl⟩ | ⟨hd, rfl⟩⟩ := execRomSr_next.mp h
    · exact .romSr d hd
    · exact .fault _ _ (.romSr d hd)
  | presentDirect d =>
    obtain ⟨-, ⟨seg, ho, ⟨hd, rfl⟩ | ⟨hd, rfl⟩⟩ | ⟨hv, rfl⟩⟩ := execPresentDirect_next.mp h
    · exact .present d seg ho hd
    · exact .fault _ _ (.presentRange d (variant_of_direct ho) hd)
    · exact .fault _ _ (.presentVariant d hv)
  | srSample =>
    obtain ⟨-, ⟨ser, ho, ⟨hp, ⟨hd, rfl⟩ | ⟨hd, rfl⟩⟩ | ⟨hp, rfl⟩⟩ | ⟨hv, rfl⟩⟩ := execSrSample_next.mp h
    · exact .sample ser ho hp hd
    · exact .fault _ _ (.sampleRange ser ho hp hd)
    · exact .fault _ _ (.sampleSeq ser ho hp)
    · exact .fault _ _ (.mainVariant _ rfl hv)
  | srShift =>
    obtain ⟨-, ⟨ser, ho, hp, rfl⟩ | ⟨ser, ho, hp, rfl⟩ | ⟨hv, rfl⟩⟩ := serializerOp_next.mp h
    · exact .shift ser ho hp
    · exact .fault _ _ (.shiftSeq ser ho hp)
    · exact .fault _ _ (.mainVariant _ rfl hv)
  | latchSet =>
    obtain ⟨-, ⟨ser, ho, hp, rfl⟩ | ⟨ser, ho, hp, rfl⟩ | ⟨hv, rfl⟩⟩ := serializerOp_next.mp h
    · exact .latchSet ser ho hp
    · exact .fault _ _ (.latchSetSeq ser ho hp)
    · exact .fault _ _ (.mainVariant _ rfl hv)
  | latchClear =>
    obtain ⟨-, ⟨ser, ho, hp, rfl⟩ | ⟨ser, ho, hp, rfl⟩ | ⟨hv, rfl⟩⟩ := serializerOp_next.mp h
    · exact .latchClear ser ho (by simpa using hp)
    · exact .fault _ _ (.latchClearSeq ser ho (by simpa using hp))
    · exact .fault _ _ (.mainVariant _ rfl hv)

/-! ### sequences of operations -/

theorem runOps_cons_next {i : Instr} {is : List Instr} {s u : State} (h : exec i s = .next u) :
    runOps (i :: is) s = runOps is u := by
  simp [runOps, h]

theorem runOps_append {is js : List Instr} {s t : State} (h : runOps is s = .next t) :
    runOps (is ++ js) s = runOps js t := by
  induction is generalizing s with
  | nil =>
    cases h
    rfl
  | cons i is ih =>
    simp only [runOps, List.cons_append] at h ⊢
    cases he : exec i s <;> rw [he] at h <;> simp only [reduceCtorEq] at h ⊢
    exact ih h

theorem runOps_ticks (n : Nat) {s : State} (h : s.Live) (hw : s.nowMs < 2 ^ s.cfg.tickWidth) :
    runOps (List.replicate n .tick) s = .next { s with nowMs := (s.nowMs + n) % 2 ^ s.cfg.tickWidth } := by
  induction n generalizing s with
  | zero => simp [runOps, Nat.mod_eq_of_lt hw]
  | succ n ih =>
    rw [List.replicate_succ, runOps_cons_next (i := .tick) (u := s.ticked) (execTick_next.mpr ⟨h, rfl⟩),
      ih (by exact h) (tickAdd_lt _ _ _)]
    simp only [State.ticked, tickAdd, tickModulus, Nat.mod_add_mod, Nat.add_assoc, Nat.add_comm 1 n]

/-! ### steps -/

theorem fetch_of_nil {s : State} (h : s.stream = []) : fetch s = (.ok (scheduled s), s.tookDraw) := by
  simp [fetch, h]

theorem fetch_of_cons {s : State} {w : Word} {rest : List Word} (h : s.stream = w :: rest) :
    fetch s = (decode w, { s with stream := rest }) := by
  simp [fetch, h]

/-- Fetching changes no element of the block's own: it takes a word off the stream, or a free value. -/
theorem fetch_keeps (s : State) :
    (fetch s).2 = s.tookDraw ∨ ∃ rest, (fetch s).2 = { s with stream := rest } := by
  unfold fetch
  split
  · exact .inr ⟨_, rfl⟩
  · exact .inl rfl

/-- A step is the execution of one operation, or the refusal of a reserved word. -/
theorem step_next_cases {s t : State} (h : step s = .next t) :
    (∃ i, (fetch s).1 = .ok i ∧ exec i (fetch s).2 = .next t) ∨
    ((fetch s).1 = .error .reservedWord ∧ refuseWord (fetch s).2 = .next t) := by
  unfold step at h
  rcases hf : fetch s with ⟨r, s'⟩
  rw [hf] at h
  cases r with
  | ok i => exact .inl ⟨i, rfl, h⟩
  | error e => cases e; exact .inr ⟨rfl, h⟩

end Sys2Proof.Machine
end

