-- ==== Sys2Proof/Laws/PerInstr.lean ====
section
/-! SUPPORT. Statements made per instruction, one lemma per constructor: about the instruction as syntax. -/

namespace Sys2Proof.Laws.OperandField

/-- The word of an operation holds its operation code in bits 7..4 and its operand in bits 3..0 (R95), the operand being the
digit where the operation has one (R98), and it is no reserved word. -/
def Statement (i : Instr) : Prop :=
  opField (encode i) = i.opcode ∧ argField (encode i) = i.argument ∧
    (i.digitOperand = none ∨ i.digitOperand = some (argField (encode i))) ∧ decode (encode i) ≠ .error .reservedWord

theorem reset : Statement .reset := by
  unfold Statement; decide

theorem tick : Statement .tick := by
  unfold Statement; decide

theorem edgeInc : Statement .edgeInc := by
  unfold Statement; decide

theorem edgeDec : Statement .edgeDec := by
  unfold Statement; decide

theorem isrInc : Statement .isrInc := by
  unfold Statement; decide

theorem isrDec : Statement .isrDec := by
  unfold Statement; decide

theorem romGpio (d : Digit) : Statement (.romGpio d) := by
  unfold Statement; revert d; decide

theorem romSr (d : Digit) : Statement (.romSr d) := by
  unfold Statement; revert d; decide

theorem presentDirect (d : Digit) : Statement (.presentDirect d) := by
  unfold Statement; revert d; decide

theorem srSample : Statement .srSample := by
  unfold Statement; decide

theorem srShift : Statement .srShift := by
  unfold Statement; decide

theorem latchSet : Statement .latchSet := by
  unfold Statement; decide

theorem latchClear : Statement .latchClear := by
  unfold Statement; decide

end Sys2Proof.Laws.OperandField
end

