-- ==== Sys2Proof/Laws/Reference.lean ====
section
/-! SUPPORT. The reference parameters are admissible; a segment map is injective and bounded as a function of the segment. -/

namespace Sys2Proof

theorem Machine.referenceConfig_wellFormed : Machine.referenceConfig.WellFormed :=
  ⟨by decide, by decide, by decide, by decide, by decide, by decide⟩

theorem SegMap.pos_lt {n : Nat} (m : SegMap n) (x : Segment) : m.pos x < n := by
  cases x <;> simp [SegMap.pos]

theorem SegMap.pos_injective {n : Nat} {m : SegMap n} (h : m.Injective) {x y : Segment} (e : m.pos x = m.pos y) : x = y := by
  simp only [SegMap.Injective, Segment.all, List.map_cons, List.map_nil, List.nodup_cons, List.mem_cons, List.not_mem_nil,
    not_or] at h
  cases x <;> cases y <;> simp_all

end Sys2Proof
end

