-- ==== Sys2Proof/Laws/Stream.lean ====
section
/-! SUPPORT. No operation reads or writes the model's own program stream: executing beside another stream gives the same answer
with that stream. -/

namespace Sys2Proof.Machine

/-- The answer with its next state, where it has one, changed by `f`. -/
def mapNext (f : State → State) : StepResult → StepResult
  | .next t => .next (f t)
  | .fault r => .fault r
  | .refused r => .refused r

theorem whenLive_withStream (s : State) (x : List Word) {r r' : StepResult}
    (h : r' = mapNext (fun t => { t with stream := x }) r) :
    whenLive { s with stream := x } r' = mapNext (fun t => { t with stream := x }) (whenLive s r) := by
  unfold whenLive
  dsimp only
  split
  · rfl
  · split
    · rfl
    · exact h

theorem handler_withStream (b : Button) (w : Word) (s : State) (x : List Word) :
    handler b w { s with stream := x } = mapNext (fun t => { t with stream := x }) (handler b w s) := by
  apply whenLive_withStream
  have hp : ({ s with stream := x } : State).pending b = s.pending b := by cases b <;> rfl
  have ha : ({ s with stream := x } : State).accepts b = s.accepts b := by cases b <;> rfl
  rw [hp, ha]
  cases s.pending b
  · rfl
  · simp only [requires, if_true]
    cases s.accepts b
    · cases b <;> rfl
    · obtain ⟨digit, li, ld, now, pi, pd, out, rq, f, rf, c, st, dr⟩ := s
      cases out
      · simp only [acceptEvent, withRead, romRead, if_true]
        split <;> cases b <;> rfl
      · cases b <;> rfl

theorem serializerOp_withStream (w : Word) (s : State) (x : List Word) (p : Serial → Bool) (f : Serial → Serial) :
    serializerOp w { s with stream := x } p f = mapNext (fun t => { t with stream := x }) (serializerOp w s p f) := by
  apply whenLive_withStream
  obtain ⟨digit, li, ld, now, pi, pd, out, rq, fl, rf, c, st, dr⟩ := s
  cases out with
  | direct seg => rfl
  | serial ser =>
    simp only [onSerial, requires]
    cases p ser <;> rfl

theorem exec_withStream (i : Instr) (s : State) (x : List Word) :
    exec i { s with stream := x } = mapNext (fun t => { t with stream := x }) (exec i s) := by
  cases i with
  | reset => exact whenLive_withStream s x rfl
  | tick => exact whenLive_withStream s x rfl
  | edgeInc => exact whenLive_withStream s x rfl
  | edgeDec => exact whenLive_withStream s x rfl
  | isrInc => exact handler_withStream .inc _ s x
  | isrDec => exact handler_withStream .dec _ s x
  | romGpio d =>
    apply whenLive_withStream
    simp only [withRead, romRead]
    split <;> rfl
  | romSr d =>
    apply whenLive_withStream
    simp only [withRead, romRead]
    split <;> rfl
  | presentDirect d =>
    apply whenLive_withStream
    obtain ⟨digit, li, ld, now, pi, pd, out, rq, fl, rf, c, st, dr⟩ := s
    cases out with
    | direct seg =>
      simp only [onDirect, withRead, romRead]
      split <;> rfl
    | serial ser => rfl
  | srSample =>
    apply whenLive_withStream
    obtain ⟨digit, li, ld, now, pi, pd, out, rq, fl, rf, c, st, dr⟩ := s
    cases out with
    | direct seg => rfl
    | serial ser =>
      simp only [onSerial, requires]
      cases decide (ser.phase = .idle)
      · rfl
      · simp only [withRead, romRead, if_true]
        split <;> rfl
  | srShift => exact serializerOp_withStream _ s x _ _
  | latchSet => exact serializerOp_withStream _ s x _ _
  | latchClear => exact serializerOp_withStream _ s x _ _

end Sys2Proof.Machine
end

