-- ==== Sys2Proof/Tests/Slice0.lean ====
section
/-! SUPPORT. Tests on small states, their expected values worked in 95_test_vectors.md or by hand from the rule named, and a
witness of the hypotheses of every statement. -/

namespace Sys2Proof.Tests

open Sys2Proof.Machine

/-! ### Helpers -/

/-- A live state of variant DIRECT: digit 3, both requests pending, 200 ms after the last accepted increment. -/
def directState : State where
  digit := 3#4
  lastInc := 1000
  lastDec := 1001
  nowMs := 1200
  pendInc := true
  pendDec := true
  out := .direct 0x80FF#16
  romQ := none
  fault := []
  refused := false
  cfg := referenceConfig
  stream := []
  draws := 1

/-- A serializer right after reset with drawn stages. -/
def idleSerial : Serial where
  phase := .idle
  byte := none
  count := 0
  shiftStage := 0xFF#8
  store := 0x2A#8
  latchLine := false

/-- A serializer that sampled the byte of digit 1 and has shifted none of it. -/
def shiftSerial : Serial := { idleSerial with phase := .shift, byte := some 0x03#8 }

/-- The same after all eight shifts. -/
def fullSerial : Serial := { shiftSerial with shiftStage := 0x03#8, count := 8 }

/-- The same between LATCH_SET and LATCH_CLEAR. -/
def highSerial : Serial := { fullSerial with phase := .latchHigh, store := 0x03#8, latchLine := true }

/-- A live state of variant SERIAL with digit 1. -/
def serialState (ser : Serial) : State := { directState with digit := 1#4, out := .serial ser }

/-- The field of the next state, where there is one. -/
def after {α : Type} (f : State → α) : StepResult → Option α
  | .next t => some (f t)
  | .fault _ => none
  | .refused _ => none

/-! ### Well-formedness: one ill-formed term for each check -/

theorem test_reference_is_well_formed : referenceConfig.WellFormed := referenceConfig_wellFormed

theorem test_digit_ten_is_out_of_domain :
    Instr.inDomain (.romGpio 10#4) = false ∧ Instr.inDomain (.romSr 10#4) = false ∧
    Instr.inDomain (.presentDirect 15#4) = false ∧ Instr.inDomain (.presentDirect 9#4) = true ∧
    Instr.inDomain .srShift = true := by decide

theorem test_font_with_dp_is_refused :
    ¬ ({ referenceConfig with font := referenceFont.set 8 [.a, .dp] } : Config).FontIsOfStrokes := by decide

theorem test_font_with_repeat_is_refused :
    ¬ ({ referenceConfig with font := referenceFont.set 8 [.a, .a] } : Config).FontIsOfStrokes := by decide

theorem test_font_one_other_than_bc_is_refused :
    ¬ ({ referenceConfig with font := referenceFont.set 1 [.b] } : Config).FontOneIsBC := by decide

theorem test_two_segments_on_one_pin_is_refused :
    ¬ ({ referenceSegPin with g := 8 } : SegMap 16).Injective := by decide

theorem test_b_off_its_pins_is_refused :
    ¬ ({ referenceConfig with segPin := { referenceSegPin with b := 0 } } : Config).PinsOfBC := by decide

theorem test_two_segments_on_one_output_is_refused :
    ¬ ({ referenceSegQbit with g := 0 } : SegMap 8).Injective := by decide

theorem test_b_off_its_outputs_is_refused :
    ¬ ({ referenceConfig with segQbit := { referenceSegQbit with b := 7 } } : Config).QbitsOfBC := by decide

/-! ### Decoding: words written out bit by bit from 30_encoding R96 -/

theorem test_decode_environment :
    decode 0b00000000#8 = .ok .reset ∧ decode 0b00010000#8 = .ok .tick ∧ decode 0b00100000#8 = .ok .edgeInc ∧
    decode 0b00100001#8 = .ok .edgeDec := by decide

theorem test_decode_handlers : decode 0b00110000#8 = .ok .isrInc ∧ decode 0b00110001#8 = .ok .isrDec := by decide

theorem test_decode_digit_operands :
    decode 0b01001001#8 = .ok (.romGpio 9#4) ∧ decode 0b01010100#8 = .ok (.romSr 4#4) ∧
    decode 0b01101100#8 = .ok (.presentDirect 12#4) := by decide

theorem test_decode_serializer :
    decode 0b01110000#8 = .ok .srSample ∧ decode 0b10000000#8 = .ok .srShift ∧ decode 0b10010000#8 = .ok .latchSet ∧
    decode 0b10100000#8 = .ok .latchClear := by decide

/-- 95_test_vectors L2.1. -/
theorem test_reserved_words_are_rejected :
    decode 0x01#8 = .error .reservedWord ∧ decode 0x1F#8 = .error .reservedWord ∧ decode 0x22#8 = .error .reservedWord ∧
    decode 0x3F#8 = .error .reservedWord ∧ decode 0x71#8 = .error .reservedWord ∧ decode 0xA1#8 = .error .reservedWord ∧
    decode 0xB0#8 = .error .reservedWord ∧ decode 0xFF#8 = .error .reservedWord := by decide

theorem test_table_word_runs_first :
    decodeTableWord 8 0x48 = some (.romGpio 8#4) ∧ decodeTableWord 8 0xFF = none ∧
    after State.romQ (step (State.reset.withFetchWord 8 0x48)) = some (some 0x7F00#16) := by decide

/-! ### Assembler: the examples of 30_encoding R104 and R105 -/

theorem test_assembly_examples :
    assembleText "ROM_SR 4".toList = some [0x54#8] ∧ assembleText "EDGE_DEC".toList = some [0x21#8] ∧
    assembleText "PRESENT_DIRECT 7   ; drive".toList = some [0x67#8] := by decide

theorem test_assembly_program :
    assembleText "RESET ; start\n\nTICKS 2\nPRESS_INC".toList = some [0x00#8, 0x10#8, 0x10#8, 0x20#8, 0x30#8] := by decide

theorem test_assembly_refuses_operand_16 :
    assembleText "ROM_SR 16".toList = none ∧ assembleText "ROM_SR".toList = none ∧ assembleText "NOP".toList = none := by
  decide

/-! ### The Debouncer: 95_test_vectors L2.3 -/

/-- D-3 and D-2: exactly 200 is accepted, 199 is discarded. -/
theorem test_isrInc_guard_boundary :
    after State.debounceWindow (exec .isrInc { directState with digit := 0#4, lastInc := 0, nowMs := 200 }) =
      some (200, 1001) ∧
    after State.debounceWindow (exec .isrInc { directState with digit := 0#4, lastInc := 0, nowMs := 199 }) =
      some (0, 1001) := by decide

/-- D-11 and D-12: the wrap of the tick. -/
theorem test_isrInc_wrap :
    after State.digit (exec .isrInc { directState with digit := 0#4, lastInc := 0xFFFFFF9C, nowMs := 0x64 }) =
      some 1#4 ∧
    after State.digit (exec .isrInc { directState with digit := 0#4, lastInc := 0xFFFFFF9C, nowMs := 0x63 }) =
      some 0#4 := by decide

/-- D-9: clamped at 0, recorded and redrawn; the other port bits 0x80FF are kept. -/
theorem test_isrDec_clamps_at_zero :
    after (fun t => (t.digit, t.lastDec, t.out)) (exec .isrDec { directState with digit := 0#4, lastDec := 0, nowMs := 300 }) =
      some (0#4, 300, .direct 0xBFFF#16) := by decide

/-- D-14: last_inc is not consulted by ISR_DEC. -/
theorem test_isrDec_own_window :
    after State.digit (exec .isrDec { directState with digit := 4#4, lastInc := 0, lastDec := 900, nowMs := 1000 }) =
      some 4#4 := by decide

/-! ### The drivers: 95_test_vectors L2.4, L2.5 -/

theorem test_presentDirect_writes_only_segment_lines :
    after State.out (exec (.presentDirect 8#4) directState) = some (.direct 0xFFFF#16) ∧
    after State.out (exec (.presentDirect 1#4) { directState with out := .direct 0xFFFF#16 }) =
      some (.direct 0x86FF#16) := by decide

/-- R228: F_VARIANT before F_RANGE. -/
theorem test_presentDirect_variant_before_range :
    after State.fault (exec (.presentDirect 12#4) (serialState idleSerial)) = some [.variant 0x6C#8] := by decide

theorem test_romSr_zero_extends :
    after State.romQ (exec (.romSr 4#4) directState) = some (some 0x0033#16) ∧
    after State.fault (exec (.romSr 15#4) directState) = some [.range 15#4] := by decide

theorem test_romGpio_reads :
    after State.romQ (exec (.romGpio 2#4) (serialState idleSerial)) = some (some 0x5B00#16) ∧
    after State.romQ (exec (.romGpio 10#4) directState) = some none := by decide

theorem test_srSample_loads_the_byte :
    after State.out (exec .srSample (serialState idleSerial)) = some (.serial shiftSerial) := by decide

/-- The first and the seventh row of the shift table. -/
theorem test_srShift_sends_msb_first :
    after State.out (exec .srShift (serialState shiftSerial)) =
      some (.serial { shiftSerial with shiftStage := 0xFE#8, count := 1 }) ∧
    after State.out (exec .srShift (serialState { shiftSerial with shiftStage := 0xC0#8, count := 6 })) =
      some (.serial { shiftSerial with shiftStage := 0x81#8, count := 7 }) := by decide

theorem test_latchSet_commits :
    after State.out (exec .latchSet (serialState fullSerial)) = some (.serial highSerial) ∧
    after State.display (exec .latchSet (serialState fullSerial)) = some [.b, .c] := by decide

/-- L2.5: with seven bits shifted, F_SEQ; P6: the record holds the word, the phase and the count. -/
theorem test_latchSet_too_early :
    after State.fault (exec .latchSet (serialState { fullSerial with count := 7 })) =
      some [.seqSerializer 0x90#8 .shift 7] := by decide

theorem test_latchClear_ends_the_refresh :
    after State.out (exec .latchClear (serialState highSerial)) =
      some (.serial { highSerial with phase := .idle, latchLine := false }) ∧
    after State.fault (exec .latchClear directState) = some [.variant 0xA0#8] := by decide

/-! ### Inputs, reset, stops: 95_test_vectors L2.6 to L2.8 -/

theorem test_tick_wraps :
    after State.nowMs (exec .tick { directState with nowMs := 0xFFFFFFFF }) = some 0 ∧
    after State.nowMs (exec .tick { directState with nowMs := 199 }) = some 200 := by decide

/-- The direct state of an instance with another W_TICK: a counter of 10 bits (R9). -/
def narrowState : State := { directState with lastInc := 924, cfg := { referenceConfig with tickWidth := 10 } }

/-- R203 and R146 with W_TICK = 10: the counter wraps at 1024, and 200 ms are measured across that wrap. -/
theorem test_narrow_tick_wraps :
    after State.nowMs (exec .tick { narrowState with nowMs := 1023 }) = some 0 ∧
    after State.digit (exec .isrInc { narrowState with nowMs := 100 }) = some 4#4 ∧
    after State.digit (exec .isrInc { narrowState with nowMs := 99 }) = some 3#4 := by decide

theorem test_edgeInc_merges :
    after State.pendInc (exec .edgeInc { directState with pendInc := false }) = some true ∧
    after State.pendInc (exec .edgeInc directState) = some true := by decide

theorem test_edgeDec_sets_its_own_flag :
    after (fun t => (t.pendInc, t.pendDec)) (exec .edgeDec { directState with pendInc := false, pendDec := false }) =
      some (false, true) := by decide

theorem test_reset_clears :
    after (fun t => (t.digit, t.nowMs, t.romQ)) (exec .reset { directState with digit := 7#4, romQ := some 0x7F00#16 }) =
      some (0#4, 0, none) ∧
    after (fun t => (t.debounceWindow, t.pendInc, t.pendDec)) (exec .reset directState) =
      some ((0, 0), false, false) := by decide

/-- L2.7: after a fault RESET has no step. -/
theorem test_reset_cannot_undo_a_fault :
    after State.digit (exec .reset { directState with fault := [.range 10#4] }) = none := by decide

theorem test_reserved_word_is_refused :
    after State.refused (step { directState with stream := [0x02#8] }) = some true := by decide

/-- 43_inputs R202: a press is an edge, a release is none. -/
theorem test_release_is_no_event : lineEvent .inc true false = some .edgeInc ∧ lineEvent .inc false true = none := by decide

/-- 70_reset_and_hazards R271: in variant SERIAL the latch line, the link, the button lines, the tick, the state, then the two
interrupts. -/
theorem test_boot_order_serial :
    (bootSequence .serial referenceConfig).take 6 =
      [.use (.configureLine .latch .outputPushPull), .setUpLink, .use (.configureLine (.button .inc) .inputPullUp),
       .use (.configureLine (.button .dec) .inputPullUp), .startTick, .resetState] ∧
    (bootSequence .direct referenceConfig).length = 14 := by decide

/-! ### Witnesses: for every statement with hypotheses, values that meet them together, clause by clause -/

/-- The direct state at its end of the range, showing the digit it holds. -/
def atNine : State := { directState with digit := 9#4, lastDec := 1000, out := .direct 0x6F00#16 }

/-- The same at 0. -/
def atZero : State := { directState with digit := 0#4, lastDec := 1000, out := .direct 0x3F00#16 }

theorem test_witness_live : directState.Live ∧ (serialState idleSerial).Live := by decide

theorem test_witness_not_live :
    ¬ ({ directState with refused := true } : State).Live ∧ ¬ ({ directState with fault := [.range 10#4] } : State).Live := by
  decide

theorem test_witness_direct_inv : directState.Inv :=
  ⟨referenceConfig_wellFormed, by decide, by decide, by decide, by decide, trivial, by decide, .inl rfl⟩

theorem test_witness_idle_inv : (serialState idleSerial).Inv :=
  ⟨referenceConfig_wellFormed, by decide, by decide, by decide, by decide, ⟨rfl, .inl ⟨rfl, rfl⟩⟩, by decide, .inl rfl⟩

theorem test_witness_shift_inv : (serialState { fullSerial with count := 7, shiftStage := 0x81#8 }).Inv :=
  ⟨referenceConfig_wellFormed, by decide, by decide, by decide, by decide, ⟨rfl, 0x03#8, rfl, ⟨1#4, by decide, by decide⟩, by decide⟩, by decide, .inl rfl⟩

theorem test_witness_high_inv : (serialState highSerial).Inv :=
  ⟨referenceConfig_wellFormed, by decide, by decide, by decide, by decide, ⟨rfl, rfl, 0x03#8, rfl, ⟨1#4, by decide, by decide⟩, rfl, rfl⟩, by decide, .inl rfl⟩

/-- DecimalPointOutputIsLow: idle after a refresh. -/
theorem test_witness_refreshed_inv :
    (serialState { highSerial with phase := .idle, latchLine := false }).Inv ∧ highSerial.byte ≠ none :=
  ⟨⟨referenceConfig_wellFormed, by decide, by decide, by decide, by decide,
    ⟨rfl, .inr ⟨0x03#8, rfl, ⟨1#4, by decide, by decide⟩, rfl, rfl, rfl⟩⟩, by decide, .inl rfl⟩, by decide⟩

/-- ReservedWordsSetRefused, at the ends of its ranges. -/
theorem test_witness_reserved_word :
    (decode 0x01#8 = .error .reservedWord ∧ decode 0x0F#8 = .error .reservedWord ∧ decode 0xB0#8 = .error .reservedWord) ∧
    directState.Live ∧ ({ directState with stream := [0x0F#8] } : State).stream = [0x0F#8] := by decide

/-- StepRunsDecodedInstruction, SchedulerTakesAnEnabledOperation. -/
theorem test_witness_streams :
    ({ directState with stream := [0x10#8, 0xFF#8] } : State).stream = 0x10#8 :: [0xFF#8] ∧ decode 0x10#8 = .ok .tick ∧
    directState.stream = [] ∧ directState.Live := by decide

/-- EnabledOperationsComplete and the cases of SchedulerTakesAnEnabledOperation: each kind of enabled operation. -/
theorem test_witness_enabled :
    (.tick ∈ enabledOps directState ∧ .isrInc ∈ enabledOps directState ∧ .isrDec ∈ enabledOps directState) ∧
    .srSample ∈ enabledOps (serialState idleSerial) ∧ .srShift ∈ enabledOps (serialState { fullSerial with count := 7 }) ∧
    .latchSet ∈ enabledOps (serialState fullSerial) ∧ .latchClear ∈ enabledOps (serialState highSerial) := by decide

/-- StepKeepsInvariant, VariantAndRomsNeverChange. -/
theorem test_witness_step_next :
    step { directState with stream := [0x10#8] } = .next { directState with nowMs := 1201 } := rfl

/-- OnlyWritersChangeAnElement: each element changed by one of its writers. -/
theorem test_witness_writers_common :
    after (fun t => (t.digit, t.lastInc, t.pendInc)) (exec .isrInc directState) = some (4#4, 1200, false) ∧
    after (fun t => (t.lastDec, t.pendDec)) (exec .isrDec { directState with lastDec := 1000 }) = some (1200, false) ∧
    after State.nowMs (exec .tick directState) = some 1201 ∧
    after State.romQ (exec (.romGpio 1#4) directState) = some (some 0x0600#16) ∧
    after State.out (exec (.presentDirect 1#4) directState) = some (.direct 0x86FF#16) := by decide

/-- OnlyWritersChangeAnElement and OutputsChangeOnlyAtLatch, variant SERIAL. -/
theorem test_witness_writers_serial :
    (serialState shiftSerial).variant = .serial ∧
    after State.out (exec .srShift (serialState shiftSerial)) =
      some (.serial { shiftSerial with shiftStage := 0xFE#8, count := 1 }) ∧
    (.srShift ≠ Instr.latchSet ∧ .srShift ≠ Instr.reset) := by decide

/-- StepsAreAtomic: a handler word in either variant and at the clamp, a word that draws a digit, and the word of SR_SAMPLE, each
the whole effect in one step. -/
theorem test_witness_atomic :
    (directState.acceptsNow .inc ∧ encode (handlerOf .inc) = 0x30#8 ∧
      after (fun t => (t.digit, t.lastInc, t.pendInc, t.out)) (step { directState with stream := [0x30#8] }) =
        some (4#4, 1200, false, .direct 0xE6FF#16) ∧ 4#4 ≠ directState.digit) ∧
    after (fun t => (t.digit, t.out)) (step { directState with stream := [0x61#8] }) = some (3#4, .direct 0x86FF#16) ∧
    ((serialState idleSerial).acceptsNow .inc ∧
      after (fun t => (t.digit, t.out)) (step { serialState idleSerial with stream := [0x30#8] }) =
        some (2#4, .serial idleSerial)) ∧
    after (fun t => (t.digit, t.lastInc, t.out)) (step { atNine with out := .direct 0x80FF#16, stream := [0x30#8] }) =
      some (9#4, 1200, .direct 0xEFFF#16) ∧
    after State.out (step { serialState idleSerial with stream := [0x70#8] }) = some (.serial shiftSerial) := by decide

/-- ResetResult; and NoEventInFirst199Ms at its bound: RESET, then 199 ticks. -/
theorem test_witness_reset :
    exec .reset directState = .next directState.afterReset ∧
    runOps (List.replicate 199 .tick) directState.afterReset =
      .next { directState.afterReset with nowMs := (0 + 199) % 2 ^ directState.cfg.tickWidth } ∧
    (List.replicate 199 Instr.tick).count .tick ≤ 199 :=
  ⟨rfl, runOps_ticks 199 (by decide) (by decide), by rw [List.count_replicate_self]⟩

/-- EdgeIncResult, EdgeDecResult, MergedEdgesAreOneRequest. -/
theorem test_witness_edges : directState.Live ∧ directState.pendInc = true ∧ directState.pendDec = true ∧
    directState.digit.toNat ≤ 9 := by decide

/-- MergedEdgesAreOneRequest: two edges of the decrement button are one request. -/
theorem test_two_edges_are_one_request :
    after (fun t => (t.pendInc, t.pendDec, t.fault)) (runOps [.edgeDec, .edgeDec, .isrDec] directState) =
      some (true, false, []) := by decide

/-- TimeIsCountedInTicks. -/
theorem test_witness_time :
    directState.nowMs < 2 ^ directState.cfg.tickWidth ∧ runOps [.tick, .edgeInc, .tick] directState = .next { directState with nowMs := 1202 } ∧
    .reset ∉ [Instr.tick, Instr.edgeInc, Instr.tick] := ⟨by decide, rfl, by decide⟩

/-- IsrIncResult: not pending; 199; 200 with the digit at 9, at 8 and at 0, in DIRECT and in SERIAL. -/
theorem test_witness_isrInc :
    ({ directState with pendInc := false } : State).pendInc = false ∧
    ((1199 : Int) - directState.lastInc) % 2 ^ directState.cfg.tickWidth = 199 ∧
    ((directState.nowMs : Int) - directState.lastInc) % 2 ^ directState.cfg.tickWidth = 200 ∧ atNine.digit.toNat = 9 ∧ atZero.digit.toNat = 0 ∧
    atNine.out = .direct 0x6F00#16 ∧ (serialState idleSerial).out = .serial idleSerial ∧ atNine.Live ∧ atZero.Live := by
  decide

/-- IsrDecResult: not pending; 199; 200. -/
theorem test_witness_isrDec :
    ({ directState with pendDec := false } : State).pendDec = false ∧
    ((directState.nowMs : Int) - directState.lastDec) % 2 ^ directState.cfg.tickWidth = 199 ∧
    ((atNine.nowMs : Int) - atNine.lastDec) % 2 ^ atNine.cfg.tickWidth = 200 ∧
    atNine.pendDec = true ∧ atNine.digit.toNat ≤ 9 := by decide

/-- ClampedEventIsRecorded: both ends, with the lines already showing the digit; HandlerOrderMatters;
AcceptedEventMovesDigitByOne; DirectDisplayFollowsDigit. -/
theorem test_witness_clamp :
    (atNine.acceptsNow .inc ∧ atNine.acceptsNow .dec ∧ atNine.digit = 9#4 ∧ atNine.digit.toNat ≤ 9 ∧
      0x6F00#16 &&& segLineMask atNine.cfg = romGpioEntry atNine.cfg 9#4) ∧
    (atZero.acceptsNow .dec ∧ atZero.digit = 0#4 ∧
      0x3F00#16 &&& segLineMask atZero.cfg = romGpioEntry atZero.cfg 0#4) ∧
    directState.acceptsNow .inc ∧ directState.out = .direct 0x80FF#16 := by decide

/-- GuardBoundaryIsInclusive and GuardMeasuresElapsedModulo: 200 and 199 ms, for both buttons. -/
theorem test_witness_guard :
    200 < 2 ^ directState.cfg.tickWidth ∧
    (directState.nowMs = (directState.last .inc + 200) % 2 ^ directState.cfg.tickWidth ∧ directState.pending .inc = true) ∧
    (directState.nowMs = (directState.last .dec + 199) % 2 ^ directState.cfg.tickWidth ∧ directState.pending .dec = true) ∧
    atNine.nowMs = (atNine.last .dec + 200) % 2 ^ atNine.cfg.tickWidth ∧ directState.cfg.tickWidth = 32 := by decide

/-- GuardMeasuresElapsedModulo: 200 ms across the wrap, and 2^32 + 100 ms. -/
theorem test_witness_guard_wrap :
    ({ directState with lastInc := 0xFFFFFF9C, nowMs := 0x64 } : State).acceptsNow .inc ∧
    0x64 = (0xFFFFFF9C + 200) % 2 ^ 32 ∧ (200 ≤ 200 % 2 ^ 32 ∧ (2 ^ 32 + 100) % 2 ^ 32 < 200) ∧
    ({ directState with nowMs := 1100 } : State).nowMs = (directState.last .inc + (2 ^ 32 + 100)) % 2 ^ 32 := by decide

/-- GuardWindowsAreIndependent, DigitClampsAndNeverWraps. -/
theorem test_witness_handlers_next :
    exec .isrInc { directState with nowMs := 1199 } = .next { directState with nowMs := 1199, pendInc := false } ∧
    exec .isrDec directState = .next { directState with pendDec := false } := ⟨rfl, rfl⟩

/-- After an accepted increment at 1200 ms, and then a new edge. -/
def pressedAgain : State := { (serialState idleSerial) with lastInc := 1200, digit := 2#4 }

/-- AcceptedEventsAreSpaced at its bound: an accepted ISR_INC, an edge, 200 ticks, and an accepted ISR_INC again. -/
theorem test_witness_spacing :
    ((serialState idleSerial).acceptsNow .inc ∧
      exec (handlerOf .inc) (serialState idleSerial) = .next { pressedAgain with pendInc := false }) ∧
    runOps (.edgeInc :: List.replicate 200 .tick) { pressedAgain with pendInc := false } =
      .next { pressedAgain with nowMs := 1400 } ∧
    ({ pressedAgain with nowMs := 1400 } : State).acceptsNow .inc ∧
    .reset ∉ Instr.edgeInc :: List.replicate 200 .tick ∧ (Instr.edgeInc :: List.replicate 200 .tick).count .tick <
      2 ^ (serialState idleSerial).cfg.tickWidth := by
  refine ⟨⟨by decide, rfl⟩, ?_, by decide, ?_, ?_⟩
  · rw [runOps_cons_next (u := pressedAgain) rfl, runOps_ticks 200 (by decide) (by decide)]
    rfl
  · rw [List.mem_cons, List.mem_replicate]
    decide
  · rw [List.count_cons, List.count_replicate_self]
    decide

/-- The statements about the ROMs: an admissible choice of the parameters, and digits at both ends of the domain and outside. -/
theorem test_witness_rom :
    referenceConfig.WellFormed ∧ (0#4).toNat ≤ 9 ∧ (9#4).toNat ≤ 9 ∧ 9 < (10#4).toNat ∧ 9 < (15#4).toNat :=
  ⟨referenceConfig_wellFormed, by decide⟩

/-- PresentDirectResult, BatchedWriteDrivesOnlySegmentLines. -/
theorem test_witness_present :
    directState.Live ∧ directState.cfg.WellFormed ∧ directState.out = .direct 0x80FF#16 ∧
    (serialState idleSerial).out = .serial idleSerial :=
  ⟨by decide, referenceConfig_wellFormed, rfl, rfl⟩

/-- SrSampleResult, RefreshShowsTheSampledDigit, MainLoopShowsTheDigit: idle, and not idle, and the other variant. -/
theorem test_witness_sample :
    idleSerial.phase = .idle ∧ (serialState idleSerial).digit.toNat ≤ 9 ∧ shiftSerial.phase ≠ .idle ∧
    (serialState shiftSerial).Live ∧ directState.variant = .direct := by decide

/-- SrShiftResult, LatchLineAndLinkLevels: counts 0 and 7 shift, count 8 does not, nor does another phase. -/
theorem test_witness_shift :
    (shiftSerial.phase = .shift ∧ shiftSerial.count.val < 8 ∧ shiftSerial.byte = some 0x03#8) ∧
    ({ fullSerial with count := 7 } : Serial).count.val < 8 ∧ ¬ (fullSerial.phase = .shift ∧ fullSerial.count.val < 8) ∧
    ¬ (idleSerial.phase = .shift ∧ idleSerial.count.val < 8) := by decide

/-- EightShiftsLoadTheByte. -/
theorem test_witness_eight_shifts :
    (serialState shiftSerial).Live ∧ (serialState shiftSerial).out = .serial shiftSerial ∧ shiftSerial.phase = .shift ∧
    shiftSerial.count = 0 ∧ shiftSerial.byte = some 0x03#8 := by decide

/-- LatchSetResult: count 8, count 7, another phase. -/
theorem test_witness_latchSet :
    (fullSerial.phase = .shift ∧ fullSerial.count.val = 8) ∧
    ¬ (({ fullSerial with count := 7 } : Serial).phase = .shift ∧ ({ fullSerial with count := 7 } : Serial).count.val = 8) ∧
    ¬ (highSerial.phase = .shift ∧ highSerial.count.val = 8) := by decide

/-- LatchClearResult. -/
theorem test_witness_latchClear : highSerial.phase = .latchHigh ∧ fullSerial.phase ≠ .latchHigh := by decide

/-- RefreshShowsTheSampledDigit: a refresh of digit 1 with an accepted increment and a tick inside it. -/
theorem test_witness_refresh :
    let is : List Instr := .isrInc :: .srShift :: .tick :: (List.replicate 7 .srShift ++ [.latchSet, .edgeDec, .latchClear])
    is.filter isMainTaskOp = List.replicate 8 .srShift ++ [.latchSet, .latchClear] ∧ .reset ∉ is ∧
    after (fun t => (t.digit, t.out)) (runOps (.srSample :: is) (serialState idleSerial)) =
      some (2#4, .serial { highSerial with phase := .idle, latchLine := false }) := by decide

/-- FaultRecordsThenStops, RefusalStops, and the fault statements. -/
theorem test_witness_faults :
    after State.fault (exec (.romGpio 10#4) directState) = some [.range 10#4] ∧
    after State.fault (exec .srShift directState) = some [.variant 0x80#8] ∧
    after State.fault (exec .isrDec { directState with pendDec := false }) = some [.seqHandler 0x31#8 false] ∧
    after State.fault (exec .srSample (serialState shiftSerial)) = some [.seqSerializer 0x70#8 .shift 0] ∧
    ({ directState with fault := [.range 10#4] } : State).fault ≠ [] ∧
    (({ directState with refused := true } : State).fault = [] ∧ ({ directState with refused := true } : State).refused = true) := by
  decide

end Sys2Proof.Tests
end

section
/-! PROOFS. The statements of 00_scope: what no step changes, the ROM entries and the segment mask bit by bit, the first state,
and boot. -/

namespace Sys2Proof.Machine

/-! ### The variant and the parameters -/

theorem variant_eq_of_out_eq {s t : State} (h : t.out = s.out) : t.variant = s.variant := by
  rw [State.variant, h, State.variant]

@[simp] theorem setOut_direct_variant (s : State) (seg : PortWord) : (s.setOut (.direct seg)).variant = .direct := rfl

@[simp] theorem setOut_serial_variant (s : State) (ser : Serial) : (s.setOut (.serial ser)).variant = .serial := rfl

theorem afterReset_variant (s : State) : s.afterReset.variant = s.variant := by
  unfold State.variant State.afterReset
  cases s.out <;> rfl

theorem fetch_variant (s : State) : (fetch s).2.variant = s.variant := by
  obtain h | ⟨rest, h⟩ := fetch_keeps s <;> rw [h] <;> exact variant_eq_of_out_eq rfl

theorem fetch_cfg (s : State) : (fetch s).2.cfg = s.cfg := by
  obtain h | ⟨rest, h⟩ := fetch_keeps s <;> rw [h]
  exact s.tookDraw_cfg

theorem effect_keeps_cfg {s t : State} {i : Instr} (h : Effect s i t) : t.cfg = s.cfg := by
  cases h <;> simp

/-- An effect writes the output stage only with a value of the constructor it found there. -/
theorem effect_keeps_variant {s t : State} {i : Instr} (h : Effect s i t) : t.variant = s.variant := by
  cases h with
  | reset => exact afterReset_variant s
  | fault | tick | romGpio | romSr => exact variant_eq_of_out_eq rfl
  | edgeInc | edgeDec | discard => exact variant_eq_of_out_eq (s.setPending_out _ _)
  | acceptSerial => exact variant_eq_of_out_eq (s.accepted_out _)
  | acceptDirect _ _ _ _ _ _ ho | present _ _ ho => rw [setOut_direct_variant, variant_of_direct ho]
  | sample _ ho | shift _ ho | latchSet _ ho | latchClear _ ho => rw [setOut_serial_variant, variant_of_serial ho]

theorem step_keeps_variant_and_cfg {s t : State} (h : step s = .next t) : t.variant = s.variant ∧ t.cfg = s.cfg := by
  obtain ⟨i, -, hexec⟩ | ⟨-, hrefuse⟩ := step_next_cases h
  · obtain ⟨-, heffect⟩ := effect_of_exec hexec
    exact ⟨(effect_keeps_variant heffect).trans (fetch_variant s), (effect_keeps_cfg heffect).trans (fetch_cfg s)⟩
  · obtain ⟨-, rfl⟩ := refuseWord_next.mp hrefuse
    exact ⟨(variant_eq_of_out_eq rfl).trans (fetch_variant s), fetch_cfg s⟩

/-- Settles O13: every effect keeps the variant and the parameters, and a ROM read depends on nothing else. -/
theorem variantAndRomsNeverChange : Obligations.VariantAndRomsNeverChange := by
  unfold Obligations.VariantAndRomsNeverChange
  intro s t h
  obtain ⟨hvariant, hcfg⟩ := step_keeps_variant_and_cfg h
  refine ⟨hvariant, hcfg, fun d => ?_⟩
  rw [hcfg]
  exact ⟨rfl, rfl⟩

/-! ### The bits of a word made from a segment map -/

theorem orOfBits_map_pos_getLsbD_iff {w : Nat} (m : SegMap w) (l : List Segment) (i : Nat) :
    (orOfBits w (l.map m.pos)).getLsbD i = true ↔ ∃ sg ∈ l, m.pos sg = i := by
  rw [orOfBits_getLsbD, decide_eq_true_iff, List.mem_map, and_iff_right_iff_imp]
  rintro ⟨sg, -, rfl⟩
  exact m.pos_lt sg

/-- No other segment shares the bit of `sg`, so it tells whether `sg` itself is listed. -/
theorem orOfBits_map_pos_getLsbD_pos {w : Nat} {m : SegMap w} (h : m.Injective) (l : List Segment) (sg : Segment) :
    (orOfBits w (l.map m.pos)).getLsbD (m.pos sg) = decide (sg ∈ l) := by
  rw [Bool.eq_iff_iff, orOfBits_map_pos_getLsbD_iff, decide_eq_true_iff]
  constructor
  · rintro ⟨x, hx, hpos⟩
    exact SegMap.pos_injective h hpos ▸ hx
  · exact fun hmem => ⟨sg, hmem, rfl⟩

/-- Settles O35: each ROM entry is the OR over FONT(d) of the bits of an injective segment map. -/
theorem romEntriesFollowFont : Obligations.RomEntriesFollowFont := by
  unfold Obligations.RomEntriesFollowFont
  intro c d hc _
  exact ⟨orOfBits_map_pos_getLsbD_pos hc.pinsInjective _, fun i => (orOfBits_map_pos_getLsbD_iff _ _ i).mp,
    orOfBits_map_pos_getLsbD_pos hc.qbitsInjective _, fun i => (orOfBits_map_pos_getLsbD_iff _ _ i).mp⟩

/-- Settles O42: the mask is the OR over the present segments of the bits of SEG_PIN. -/
theorem segLineMaskIsPresentSegments : Obligations.SegLineMaskIsPresentSegments := by
  unfold Obligations.SegLineMaskIsPresentSegments
  exact ⟨fun c => orOfBits_map_pos_getLsbD_iff c.segPin c.segments, by decide⟩

/-! ### The first state of a run -/

theorem powerOn_variant (v : Variant) (c : Config) : (State.powerOn v c).variant = v := by
  cases v <;> rfl

theorem handlerOps_of_not_pending {s : State} (hinc : s.pendInc = false) (hdec : s.pendDec = false) :
    handlerOps s = [] := by
  simp [handlerOps, State.pending, hinc, hdec]

/-- Settles O12: each listed value is written by power-on; no drawn level is among them. -/
theorem powerOnValues : Obligations.PowerOnValues := by
  unfold Obligations.PowerOnValues
  refine ⟨fun v c => ?_, fun c => ?_, fun c => rfl, rfl, rfl⟩
  · exact ⟨_, rfl, rfl, rfl, rfl, rfl, rfl, rfl, rfl, rfl, rfl, powerOn_variant v c, rfl, handlerOps_of_not_pending rfl rfl⟩
  · exact ⟨_, rfl, rfl, rfl, rfl, rfl, rfl⟩

/-! ### Boot -/

theorem mem_forButtons {f : Button → Capability} {p : BootPart} : p ∈ forButtons f ↔ ∃ b, p = .use (f b) := by
  simp only [forButtons, List.mem_cons, List.not_mem_nil, or_false]
  constructor
  · rintro (h | h)
    · exact ⟨.inc, h⟩
    · exact ⟨.dec, h⟩
  · rintro ⟨_ | _, h⟩
    · exact .inl h
    · exact .inr h

theorem mem_bootOutputs_direct {c : Config} {p : BootPart} :
    p ∈ bootOutputs .direct c ↔ ∃ sg ∈ c.segments, p = .use (.configureLine (.segment sg) .outputPushPull) := by
  simp [bootOutputs, @eq_comm _ p]

theorem mem_bootOutputs_serial {c : Config} {p : BootPart} :
    p ∈ bootOutputs .serial c ↔ p = .use (.configureLine .latch .outputPushPull) ∨ p = .setUpLink := by
  simp [bootOutputs]

/-- The parts of boot before the tick is started: the output lines, then the button lines (steps 1 and 2 of R271). -/
def bootLines (v : Variant) (c : Config) : List BootPart :=
  bootOutputs v c ++ forButtons fun b => .configureLine (.button b) .inputPullUp

/-- The parts of boot after the state is set: the interrupts, then the main loop (steps 5 and 6 of R271). -/
def bootInterrupts (c : Config) : List BootPart :=
  (forButtons fun b => .configureInterrupt b .fallingEdge (irqPriority c b)) ++ [.enterMainLoop]

theorem bootSequence_eq (v : Variant) (c : Config) :
    bootSequence v c = bootLines v c ++ .startTick :: .resetState :: bootInterrupts c := by
  simp [bootSequence, bootLines, bootInterrupts]

theorem mem_bootLines {v : Variant} {c : Config} {p : BootPart} :
    p ∈ bootLines v c ↔ p ∈ bootOutputs v c ∨ ∃ b, p = .use (.configureLine (.button b) .inputPullUp) := by
  rw [bootLines, List.mem_append, mem_forButtons]

theorem mem_bootInterrupts {c : Config} {p : BootPart} :
    p ∈ bootInterrupts c ↔
      (∃ b, p = .use (.configureInterrupt b .fallingEdge (irqPriority c b))) ∨ p = .enterMainLoop := by
  rw [bootInterrupts, List.mem_append, mem_forButtons, List.mem_singleton]

theorem mem_bootSequence {v : Variant} {c : Config} {p : BootPart} :
    p ∈ bootSequence v c ↔ p ∈ bootLines v c ∨ p = .startTick ∨ p = .resetState ∨ p ∈ bootInterrupts c := by
  rw [bootSequence_eq, List.mem_append, List.mem_cons, List.mem_cons]

/-- A part of `bootLines` configures a line or sets up the link. -/
theorem bootLines_cases {v : Variant} {c : Config} {p : BootPart} (h : p ∈ bootLines v c) :
    (∃ l m, p = .use (.configureLine l m)) ∨ p = .setUpLink := by
  obtain h | ⟨b, rfl⟩ := mem_bootLines.mp h
  · cases v with
    | direct =>
      obtain ⟨sg, -, rfl⟩ := mem_bootOutputs_direct.mp h
      exact .inl ⟨_, _, rfl⟩
    | serial =>
      obtain rfl | rfl := mem_bootOutputs_serial.mp h
      · exact .inl ⟨_, _, rfl⟩
      · exact .inr rfl
  · exact .inl ⟨_, _, rfl⟩

theorem configureInterrupt_not_mem_bootLines (v : Variant) (c : Config) (b : Button) (e : InterruptEdge) (p : Nat) :
    .use (.configureInterrupt b e p) ∉ bootLines v c := by
  intro h
  simpa using bootLines_cases h

theorem configureLine_not_mem_bootInterrupts (c : Config) (l : LineId) (m : LineMode) :
    .use (.configureLine l m) ∉ bootInterrupts c := by
  simp [mem_bootInterrupts]

theorem bootLines_ops (v : Variant) (c : Config) : (bootLines v c).flatMap BootPart.ops = [] := by
  refine List.flatMap_eq_nil_iff.mpr fun p hp => ?_
  obtain ⟨l, m, rfl⟩ | rfl := bootLines_cases hp <;> rfl

theorem bootInterrupts_ops (c : Config) : (bootInterrupts c).flatMap BootPart.ops = [] := rfl

theorem bootSequence_ops (v : Variant) (c : Config) : (bootSequence v c).flatMap BootPart.ops = [.reset] := by
  rw [bootSequence_eq, List.flatMap_append, bootLines_ops, List.flatMap_cons, List.flatMap_cons, bootInterrupts_ops]
  rfl

theorem configureLine_mem_bootSequence {v : Variant} {c : Config} {l : LineId} {m : LineMode} :
    .use (.configureLine l m) ∈ bootSequence v c ↔
      .use (.configureLine l m) ∈ bootOutputs v c ∨ (m = .inputPullUp ∧ ∃ b, l = .button b) := by
  simp [mem_bootSequence, mem_bootLines, configureLine_not_mem_bootInterrupts, and_comm]

theorem configureLine_mem_bootSequence_direct (c : Config) (l : LineId) (m : LineMode) :
    .use (.configureLine l m) ∈ bootSequence .direct c ↔
      (m = .inputPullUp ∧ ∃ b, l = .button b) ∨ (m = .outputPushPull ∧ ∃ sg ∈ c.segments, l = .segment sg) := by
  rw [configureLine_mem_bootSequence, mem_bootOutputs_direct, or_comm]
  refine or_congr_right ⟨?_, ?_⟩
  · rintro ⟨sg, hsg, h⟩
    cases h
    exact ⟨rfl, sg, hsg, rfl⟩
  · rintro ⟨rfl, sg, hsg, rfl⟩
    exact ⟨sg, hsg, rfl⟩

theorem configureLine_mem_bootSequence_serial (c : Config) (l : LineId) (m : LineMode) :
    .use (.configureLine l m) ∈ bootSequence .serial c ↔
      (m = .inputPullUp ∧ ∃ b, l = .button b) ∨ (m = .outputPushPull ∧ l = .latch) := by
  rw [configureLine_mem_bootSequence, mem_bootOutputs_serial, or_comm]
  simp [and_comm]

/-- `lineMode` and boot give a line the same mode: compared line by line, within each variant. -/
theorem lineMode_eq_some_iff (v : Variant) (c : Config) (l : LineId) (m : LineMode) :
    lineMode v c l = some m ↔ .use (.configureLine l m) ∈ bootSequence v c := by
  cases v with
  | direct =>
    rw [configureLine_mem_bootSequence_direct]
    cases l <;> simp [lineMode, eq_comm, and_comm]
  | serial =>
    rw [configureLine_mem_bootSequence_serial]
    cases l <;> simp [lineMode, eq_comm]

theorem setUpLink_mem_bootSequence (v : Variant) (c : Config) : .setUpLink ∈ bootSequence v c ↔ v = .serial := by
  cases v with
  | direct => simp [mem_bootSequence, mem_bootLines, mem_bootInterrupts, mem_bootOutputs_direct]
  | serial => simp [mem_bootSequence, mem_bootLines, mem_bootOutputs_serial]

theorem configureInterrupt_mem_bootSequence (v : Variant) (c : Config) (b : Button) (e : InterruptEdge) (p : Nat) :
    .use (.configureInterrupt b e p) ∈ bootSequence v c ↔ e = .fallingEdge ∧ p = irqPriority c b := by
  rw [mem_bootSequence, or_iff_right (configureInterrupt_not_mem_bootLines v c b e p), mem_bootInterrupts]
  constructor
  · rintro (h | h | ⟨b', h⟩ | h) <;> cases h
    exact ⟨rfl, rfl⟩
  · rintro ⟨rfl, rfl⟩
    exact .inr (.inr (.inl ⟨b, rfl⟩))

/-- Settles O22: boot is the lines, the tick, RESET, then the interrupts, and RESET is its only operation. -/
theorem bootConfiguresLinesWithoutOperations : Obligations.BootConfiguresLinesWithoutOperations := by
  unfold Obligations.BootConfiguresLinesWithoutOperations
  refine ⟨configureLine_mem_bootSequence_direct, configureLine_mem_bootSequence_serial, lineMode_eq_some_iff,
    setUpLink_mem_bootSequence, fun v c b e p => ?_, fun v c => ?_⟩
  · rw [configureInterrupt_mem_bootSequence]
    cases b <;> rfl
  · exact ⟨bootLines v c, bootInterrupts c, bootSequence_eq v c, configureInterrupt_not_mem_bootLines v c,
      configureLine_not_mem_bootInterrupts c, bootLines_ops v c, bootInterrupts_ops c, bootSequence_ops v c⟩

end Sys2Proof.Machine
end

section
/-! PROOFS. What an operation leaves of each element of the state, one lemma per element,
over the effects of Laws/Exec.lean. -/

namespace Sys2Proof.Machine

/-! ### Two different buttons -/

theorem setPending_pending_of_ne (s : State) {b c : Button} (h : c ≠ b) (v : Bool) :
    (s.setPending b v).pending c = s.pending c := by
  cases b <;> cases c
  case inc.dec | dec.inc => rfl
  all_goals exact absurd rfl h

theorem setLast_last_of_ne (s : State) {b c : Button} (h : c ≠ b) (x : Nat) : (s.setLast b x).last c = s.last c := by
  cases b <;> cases c
  case inc.dec | dec.inc => rfl
  all_goals exact absurd rfl h

theorem accepted_pending_of_ne (s : State) {b c : Button} (h : c ≠ b) : (s.accepted b).pending c = s.pending c := by
  rw [State.accepted, State.setLast_pending, State.setDigit_pending, setPending_pending_of_ne s h]

theorem accepted_last_of_ne (s : State) {b c : Button} (h : c ≠ b) : (s.accepted b).last c = s.last c := by
  rw [State.accepted, setLast_last_of_ne _ h, State.setDigit_last, State.setPending_last]

theorem handlerOf_injective : Function.Injective handlerOf := by
  intro b c h
  cases b <;> cases c
  case inc.dec | dec.inc => cases h
  all_goals rfl

theorem handlerOf_ne_reset (b : Button) : handlerOf b ≠ .reset := by
  cases b <;> decide

theorem isr_of_eq_handlerOf {i : Instr} {b : Button} (h : i = handlerOf b) : i = .isrInc ∨ i = .isrDec := by
  cases b with
  | inc => exact .inl h
  | dec => exact .inr h

/-! ### What an operation leaves of each element -/

theorem effect_digit {s t : State} {i : Instr} (h : Effect s i t) :
    t.digit = s.digit ∨ (∃ b, i = handlerOf b ∧ t.digit = stepDigit b s.digit) ∨ (i = .reset ∧ t.digit = 0#4) := by
  cases h with
  | reset => exact .inr (.inr ⟨rfl, rfl⟩)
  | acceptSerial _ b hi => exact .inr (.inl ⟨b, hi, s.accepted_digit b⟩)
  | acceptDirect _ b hi => exact .inr (.inl ⟨b, hi, s.accepted_digit b⟩)
  | edgeInc | edgeDec | discard => exact .inl (s.setPending_digit _ _)
  | fault | tick | romGpio | romSr | present | sample | shift | latchSet | latchClear => exact .inl rfl

theorem effect_last {s t : State} {i : Instr} (h : Effect s i t) (b : Button) :
    t.last b = s.last b ∨ (i = handlerOf b ∧ t.last b = s.nowMs) ∨ (i = .reset ∧ t.last b = 0) := by
  cases h with
  | reset => exact .inr (.inr ⟨rfl, by cases b <;> rfl⟩)
  | acceptSerial _ b' hi | acceptDirect _ b' hi =>
    by_cases hb : b = b'
    · subst hb
      exact .inr (.inl ⟨hi, s.accepted_last_self b⟩)
    · exact .inl (by simp [accepted_last_of_ne s hb])
  | edgeInc | edgeDec | discard => exact .inl (s.setPending_last _ b _)
  | fault | tick | romGpio | romSr | present | sample | shift | latchSet | latchClear => exact .inl (by cases b <;> rfl)

theorem effect_nowMs {s t : State} {i : Instr} (h : Effect s i t) :
    t.nowMs = s.nowMs ∨ (i = .tick ∧ t.nowMs = tickAdd s.cfg s.nowMs 1) ∨ (i = .reset ∧ t.nowMs = 0) := by
  cases h with
  | reset => exact .inr (.inr ⟨rfl, rfl⟩)
  | tick => exact .inr (.inl ⟨rfl, rfl⟩)
  | acceptSerial _ b | acceptDirect _ b => exact .inl (s.accepted_nowMs b)
  | edgeInc | edgeDec | discard => exact .inl (s.setPending_nowMs _ _)
  | fault | romGpio | romSr | present | sample | shift | latchSet | latchClear => exact .inl rfl

theorem effect_pending {s t : State} {i : Instr} (h : Effect s i t) (b : Button) :
    t.pending b = s.pending b ∨ i = edgeOf b ∨ i = handlerOf b ∨ i = .reset := by
  cases h with
  | reset => exact .inr (.inr (.inr rfl))
  | edgeInc =>
    cases b with
    | inc => exact .inr (.inl rfl)
    | dec => exact .inl rfl
  | edgeDec =>
    cases b with
    | inc => exact .inl rfl
    | dec => exact .inr (.inl rfl)
  | discard _ b' hi =>
    by_cases hb : b = b'
    · exact .inr (.inr (.inl (hb ▸ hi)))
    · exact .inl (setPending_pending_of_ne s hb false)
  | acceptSerial _ b' hi | acceptDirect _ b' hi =>
    by_cases hb : b = b'
    · exact .inr (.inr (.inl (hb ▸ hi)))
    · exact .inl (by simp [accepted_pending_of_ne s hb])
  | fault | tick | romGpio | romSr | present | sample | shift | latchSet | latchClear => exact .inl (by cases b <;> rfl)

theorem effect_romQ {s t : State} {i : Instr} (h : Effect s i t) :
    t.romQ = s.romQ ∨ (∃ d, i = .romGpio d ∨ i = .romSr d) ∨ i = .reset := by
  cases h with
  | reset => exact .inr (.inr rfl)
  | romGpio d => exact .inr (.inl ⟨d, .inl rfl⟩)
  | romSr d => exact .inr (.inl ⟨d, .inr rfl⟩)
  | acceptSerial _ b | acceptDirect _ b => exact .inl (s.accepted_romQ b)
  | edgeInc | edgeDec | discard => exact .inl (s.setPending_romQ _ _)
  | fault | tick | present | sample | shift | latchSet | latchClear => exact .inl rfl

theorem effect_fault {s t : State} {i : Instr} (h : Effect s i t) :
    t.fault = s.fault ∨ ∃ r, t.fault = insertRecord r s.fault := by
  cases h with
  | fault _ r => exact .inr ⟨r, rfl⟩
  | acceptSerial _ b | acceptDirect _ b => exact .inl (s.accepted_fault b)
  | edgeInc | edgeDec | discard => exact .inl (s.setPending_fault _ _)
  | reset | tick | romGpio | romSr | present | sample | shift | latchSet | latchClear => exact .inl rfl

theorem effect_keeps_refused {s t : State} {i : Instr} (h : Effect s i t) : t.refused = s.refused := by
  cases h <;> simp

theorem effect_keeps_stream {s t : State} {i : Instr} (h : Effect s i t) : t.stream = s.stream := by
  cases h <;> simp

/-- What an operation leaves of the serializer and the shift register `p` of a state, in variant SERIAL: kept, or written by
one of the five operations that write them. -/
inductive SerialEffect (s : State) (p : Serial) : Instr → Serial → Prop
  | kept (i : Instr) : SerialEffect s p i p
  | reset (sh st : SrWord) : SerialEffect s p .reset
      { phase := .idle, byte := none, count := 0, shiftStage := sh, store := st, latchLine := false }
  | sample (hp : p.phase = .idle) (hd : s.digit.toNat ≤ 9) :
      SerialEffect s p .srSample (p.sample (romSrEntry s.cfg s.digit))
  | shift (hp : p.canShift = true) : SerialEffect s p .srShift (p.shifted s.draws)
  | latchSet (hp : p.canLatch = true) : SerialEffect s p .latchSet p.latched
  | latchClear (hp : p.phase = .latchHigh) : SerialEffect s p .latchClear p.cleared

theorem serialEffect_of_effect {s t : State} {i : Instr} {p : Serial} (h : Effect s i t) (hp : s.out = .serial p) :
    ∃ q, t.out = .serial q ∧ SerialEffect s p i q := by
  cases h with
  | reset => exact ⟨_, by rw [State.afterReset_out, hp]; rfl, .reset _ _⟩
  | sample ser ho hidle hd =>
    cases hp.symm.trans ho
    exact ⟨_, rfl, .sample hidle hd⟩
  | shift ser ho hcan =>
    cases hp.symm.trans ho
    exact ⟨_, rfl, .shift hcan⟩
  | latchSet ser ho hcan =>
    cases hp.symm.trans ho
    exact ⟨_, rfl, .latchSet hcan⟩
  | latchClear ser ho hhigh =>
    cases hp.symm.trans ho
    exact ⟨_, rfl, .latchClear hhigh⟩
  | acceptDirect _ b hi seg hpend hacc ho => cases hp.symm.trans ho
  | present d seg ho => cases hp.symm.trans ho
  | acceptSerial _ b => exact ⟨p, (s.accepted_out b).trans hp, .kept _⟩
  | edgeInc | edgeDec | discard => exact ⟨p, (s.setPending_out _ _).trans hp, .kept _⟩
  | fault | tick | romGpio | romSr => exact ⟨p, hp, .kept _⟩

/-- The segment lines are written by PRESENT_DIRECT, by an accepted handler and by RESET. -/
theorem effect_out_of_direct {s t : State} {i : Instr} {seg : PortWord} (h : Effect s i t) (hseg : s.out = .direct seg) :
    t.out = s.out ∨ (∃ d, i = .presentDirect d) ∨ (∃ b, i = handlerOf b) ∨ i = .reset := by
  cases h with
  | reset => exact .inr (.inr (.inr rfl))
  | acceptSerial _ b hi | acceptDirect _ b hi => exact .inr (.inr (.inl ⟨b, hi⟩))
  | present d => exact .inr (.inl ⟨d, rfl⟩)
  | sample ser ho | shift ser ho | latchSet ser ho | latchClear ser ho => cases hseg.symm.trans ho
  | edgeInc | edgeDec | discard => exact .inl (s.setPending_out _ _)
  | fault | tick | romGpio | romSr => exact .inl rfl

end Sys2Proof.Machine
end

section
/-! PROOFS. The statements of 10_state: who writes each element, the invariant of a run, and what follows from either. -/

namespace Sys2Proof.Machine

/-- Settles O14: the writers of each element are those of the element's own frame lemma. -/
theorem onlyWritersChangeAnElement : Obligations.OnlyWritersChangeAnElement := by
  unfold Obligations.OnlyWritersChangeAnElement
  intro i s t h
  obtain ⟨hlive, he⟩ := effect_of_exec h
  refine ⟨fun hne => ?_, fun hne => ?_, fun hne => ?_, fun hne => ?_, fun hne => ?_, fun hne => ?_, fun hne => ?_,
    fun seg hseg hne => ?_, fun p hp => ?_, ?_, effect_keeps_refused he, effect_keeps_cfg he, effect_keeps_stream he⟩
  · obtain ⟨b, hi, -⟩ | ⟨hreset, -⟩ := (effect_digit he).resolve_left hne
    · exact or_assoc.mp (.inl (isr_of_eq_handlerOf hi))
    · exact .inr (.inr hreset)
  · exact ((effect_last he .inc).resolve_left hne).imp And.left And.left
  · exact ((effect_last he .dec).resolve_left hne).imp And.left And.left
  · exact ((effect_nowMs he).resolve_left hne).imp And.left And.left
  · exact (effect_pending he .inc).resolve_left hne
  · exact (effect_pending he .dec).resolve_left hne
  · exact (effect_romQ he).resolve_left hne
  · obtain hpresent | ⟨b, hi⟩ | hreset := (effect_out_of_direct he hseg).resolve_left hne
    · exact .inl hpresent
    · exact .inr (or_assoc.mp (.inl (isr_of_eq_handlerOf hi)))
    · exact .inr (.inr (.inr hreset))
  · obtain ⟨q, hq, hser⟩ := serialEffect_of_effect he hp
    refine ⟨q, hq, ?_⟩
    cases hser <;> simp [Serial.sample, Serial.shifted, Serial.latched, Serial.cleared]
  · obtain hkept | ⟨r, hr⟩ := effect_fault he
    · exact hkept ▸ List.Subset.refl _
    · rw [hlive.1]
      exact List.nil_subset _

/-! ### The phase machine's invariant, phase by phase -/

section
variable {c : Config} {ser : Serial}

theorem serial_inv_iff_of_idle (h : ser.phase = .idle) :
    ser.Inv c ↔ ser.latchLine = false ∧
      ((ser.byte = none ∧ ser.count.val = 0) ∨
       (∃ b, ser.byte = some b ∧ IsSrEntry c b ∧ ser.shiftStage = b ∧ ser.store = b ∧ ser.count.val = 8)) := by
  simp only [Serial.Inv, h]

theorem serial_inv_iff_of_shift (h : ser.phase = .shift) :
    ser.Inv c ↔ ser.latchLine = false ∧ ∃ b, ser.byte = some b ∧ IsSrEntry c b ∧
      ∀ j, j < ser.count.val → ser.shiftStage.getLsbD j = b.getLsbD (8 - ser.count.val + j) := by
  simp only [Serial.Inv, h]

theorem serial_inv_iff_of_latchHigh (h : ser.phase = .latchHigh) :
    ser.Inv c ↔ ser.latchLine = true ∧ ser.count.val = 8 ∧
      ∃ b, ser.byte = some b ∧ IsSrEntry c b ∧ ser.shiftStage = b ∧ ser.store = b := by
  simp only [Serial.Inv, h]

theorem canShift_iff : ser.canShift = true ↔ ser.phase = .shift ∧ ser.count.val < 8 := by
  simp [Serial.canShift]

theorem canLatch_iff : ser.canLatch = true ↔ ser.phase = .shift ∧ ser.count.val = 8 := by
  simp [Serial.canLatch]

/-- SR_SAMPLE leaves a byte of ROM_SR with none of its bits shifted (R175). -/
theorem sample_inv {v : SrWord} (hidle : ser.phase = .idle) (hv : IsSrEntry c v) (h : ser.Inv c) :
    (ser.sample v).Inv c := by
  obtain ⟨hline, -⟩ := (serial_inv_iff_of_idle hidle).mp h
  exact (serial_inv_iff_of_shift rfl).mpr ⟨hline, v, rfl, hv, fun j hj => absurd hj (Nat.not_lt_zero j)⟩

theorem shiftIn_getLsbD_zero (v : SrWord) (b : Bool) : (shiftIn v b).getLsbD 0 = b := by
  cases b <;> simp [shiftIn]

theorem shiftIn_getLsbD_succ (v : SrWord) (b : Bool) {j : Nat} (hj : j + 1 < 8) :
    (shiftIn v b).getLsbD (j + 1) = v.getLsbD j := by
  rw [BitVec.getLsbD_eq_getElem (by omega : j < 8)]
  simp [shiftIn, hj]

theorem linkBit_of_byte {b : SrWord} (h : ser.byte = some b) (draws : Nat) :
    ser.linkBit draws = b.getLsbD (7 - ser.count.val) := by
  simp [Serial.linkBit, h]

theorem shifted_count_val (draws : Nat) (h : ser.count.val < 8) :
    (ser.shifted draws).count.val = ser.count.val + 1 := by
  simp only [Serial.shifted, Fin.val_add]
  omega

/-- SR_SHIFT sends bit 7 - k of the byte into bit 0 and moves the k bits sent before one place up (R177, R178). -/
theorem shifted_inv (draws : Nat) (hcan : ser.canShift = true) (h : ser.Inv c) : (ser.shifted draws).Inv c := by
  obtain ⟨hphase, hcount⟩ := canShift_iff.mp hcan
  obtain ⟨hline, b, hbyte, hentry, hbits⟩ := (serial_inv_iff_of_shift hphase).mp h
  refine (serial_inv_iff_of_shift (ser := ser.shifted draws) hphase).mpr ⟨hline, b, hbyte, hentry, fun j hj => ?_⟩
  rw [shifted_count_val draws hcount] at hj ⊢
  show (shiftIn ser.shiftStage (ser.linkBit draws)).getLsbD j = _
  cases j with
  | zero => rw [shiftIn_getLsbD_zero, linkBit_of_byte hbyte, Nat.add_zero, Nat.add_sub_add_right 7 1]
  | succ j =>
    rw [shiftIn_getLsbD_succ _ _ (by omega), hbits j (by omega)]
    congr 1
    omega

/-- After eight shifts the shift stage holds the byte (R178), so LATCH_SET commits it (R180, R183). -/
theorem latched_inv (hcan : ser.canLatch = true) (h : ser.Inv c) : ser.latched.Inv c := by
  obtain ⟨hphase, hcount⟩ := canLatch_iff.mp hcan
  obtain ⟨-, b, hbyte, hentry, hbits⟩ := (serial_inv_iff_of_shift hphase).mp h
  have hstage : ser.shiftStage = b := by
    refine BitVec.eq_of_getLsbD_eq fun j hj => ?_
    simpa [hcount] using hbits j (by omega)
  exact (serial_inv_iff_of_latchHigh rfl).mpr ⟨rfl, hcount, b, hbyte, hentry, hstage, hstage⟩

theorem cleared_inv (hhigh : ser.phase = .latchHigh) (h : ser.Inv c) : ser.cleared.Inv c := by
  obtain ⟨-, hcount, b, hbyte, hentry, hstage, hstore⟩ := (serial_inv_iff_of_latchHigh hhigh).mp h
  exact (serial_inv_iff_of_idle rfl).mpr ⟨rfl, .inr ⟨b, hbyte, hentry, hstage, hstore, hcount⟩⟩

end

theorem serialEffect_keeps_inv {s : State} {p q : Serial} {i : Instr} (he : SerialEffect s p i q) (h : p.Inv s.cfg) :
    q.Inv s.cfg := by
  cases he with
  | kept => exact h
  | reset => exact (serial_inv_iff_of_idle rfl).mpr ⟨rfl, .inl ⟨rfl, rfl⟩⟩
  | sample hp hd => exact sample_inv hp ⟨s.digit, hd, rfl⟩ h
  | shift hp => exact shifted_inv _ hp h
  | latchSet hp => exact latched_inv hp h
  | latchClear hp => exact cleared_inv hp h

/-! ### Every step keeps the invariant of a run -/

theorem effect_keeps_digit_le {s t : State} {i : Instr} (he : Effect s i t) (h : s.digit.toNat ≤ 9) :
    t.digit.toNat ≤ 9 := by
  obtain hkept | ⟨b, -, hstep⟩ | ⟨-, hzero⟩ := effect_digit he
  · exact hkept ▸ h
  · exact hstep ▸ stepDigit_le h
  · simp [hzero]

theorem effect_keeps_nowMs_lt {s t : State} {i : Instr} (he : Effect s i t) (h : s.nowMs < 2 ^ s.cfg.tickWidth) :
    t.nowMs < 2 ^ s.cfg.tickWidth := by
  obtain hkept | ⟨-, htick⟩ | ⟨-, hzero⟩ := effect_nowMs he
  · exact hkept ▸ h
  · exact htick ▸ tickAdd_lt _ _ _
  · exact hzero ▸ tickModulus_pos _

theorem effect_keeps_last_lt {s t : State} {i : Instr} {b : Button} (he : Effect s i t)
    (hnow : s.nowMs < 2 ^ s.cfg.tickWidth) (hlast : s.last b < 2 ^ s.cfg.tickWidth) :
    t.last b < 2 ^ s.cfg.tickWidth := by
  obtain hkept | ⟨-, hrecorded⟩ | ⟨-, hzero⟩ := effect_last he b
  · exact hkept ▸ hlast
  · exact hrecorded ▸ hnow
  · exact hzero ▸ tickModulus_pos _

theorem effect_keeps_out_inv {s t : State} {i : Instr} (he : Effect s i t) (h : s.out.Inv s.cfg) :
    t.out.Inv s.cfg := by
  cases hs : s.out with
  | direct seg =>
    cases ht : t.out with
    | direct seg' => trivial
    | serial q => simpa [State.variant, hs, ht] using effect_keeps_variant he
  | serial p =>
    obtain ⟨q, hq, hser⟩ := serialEffect_of_effect he hs
    rw [hs] at h
    rw [hq]
    exact serialEffect_keeps_inv hser h

theorem effect_fault_length_le_one {s t : State} {i : Instr} (he : Effect s i t) (hlive : s.Live) :
    t.fault.length ≤ 1 := by
  obtain hkept | ⟨r, hr⟩ := effect_fault he
  · simp [hkept, hlive.1]
  · simp [hr, hlive.1]

theorem effect_keeps_inv {s t : State} {i : Instr} (hlive : s.Live) (he : Effect s i t) (h : s.Inv) : t.Inv where
  cfg := effect_keeps_cfg he ▸ h.cfg
  digit := effect_keeps_digit_le he h.digit
  nowMs := effect_keeps_cfg he ▸ effect_keeps_nowMs_lt he h.nowMs
  lastInc := effect_keeps_cfg he ▸ effect_keeps_last_lt (b := .inc) he h.nowMs h.lastInc
  lastDec := effect_keeps_cfg he ▸ effect_keeps_last_lt (b := .dec) he h.nowMs h.lastDec
  out := effect_keeps_cfg he ▸ effect_keeps_out_inv he h.out
  oneFault := effect_fault_length_le_one he hlive
  oneStop := .inr ((effect_keeps_refused he).trans hlive.2)

theorem exec_keeps_inv {s t : State} {i : Instr} (he : exec i s = .next t) (h : s.Inv) : t.Inv := by
  obtain ⟨hlive, heffect⟩ := effect_of_exec he
  exact effect_keeps_inv hlive heffect h

theorem fetch_keeps_inv {s : State} (h : s.Inv) : (fetch s).2.Inv := by
  obtain ⟨hcfg, hdigit, hnow, hinc, hdec, hout, hfault, hstop⟩ := h
  obtain h | ⟨rest, h⟩ := fetch_keeps s
  · exact h ▸ ⟨hcfg, hdigit, hnow, hinc, hdec, hout, hfault, hstop⟩
  · exact h ▸ ⟨hcfg, hdigit, hnow, hinc, hdec, hout, hfault, hstop⟩

theorem setRefused_inv {s : State} (hlive : s.Live) (h : s.Inv) : s.setRefused.Inv := by
  obtain ⟨hcfg, hdigit, hnow, hinc, hdec, hout, hfault, -⟩ := h
  exact ⟨hcfg, hdigit, hnow, hinc, hdec, hout, hfault, .inl hlive.1⟩

/-- Settles O10: fetching, every effect of an operation, and the refusal of a reserved word keep the invariant. -/
theorem stepKeepsInvariant : Obligations.StepKeepsInvariant := by
  unfold Obligations.StepKeepsInvariant
  intro s t h hstep
  obtain ⟨i, -, hexec⟩ | ⟨-, hrefuse⟩ := step_next_cases hstep
  · exact exec_keeps_inv hexec (fetch_keeps_inv h)
  · obtain ⟨hlive, rfl⟩ := refuseWord_next.mp hrefuse
    exact setRefused_inv hlive (fetch_keeps_inv h)

end Sys2Proof.Machine
end

section
/-! PROOFS. The statements of 10_state about the outputs: the latch line, the link, the parallel outputs and the display. -/

namespace Sys2Proof.Machine

/-! ### The latch line and the link -/

theorem latchLine_eq_of_inv {c : Config} {ser : Serial} (h : ser.Inv c) :
    ser.latchLine = decide (ser.phase = .latchHigh) := by
  cases hp : ser.phase with
  | idle => exact ((serial_inv_iff_of_idle hp).mp h).1
  | shift => exact ((serial_inv_iff_of_shift hp).mp h).1
  | latchHigh => exact ((serial_inv_iff_of_latchHigh hp).mp h).1

theorem serial_inv_of_inv {s : State} {ser : Serial} (h : s.Inv) (ho : s.out = .serial ser) : ser.Inv s.cfg := by
  have hout := h.out
  rwa [ho] at hout

/-- Settles O52: the latch clause is read off the invariant, and the link carries the bit the next SR_SHIFT sends. -/
theorem latchLineAndLinkLevels : Obligations.LatchLineAndLinkLevels := by
  unfold Obligations.LatchLineAndLinkLevels
  intro s ser h ho
  refine ⟨?_, fun b hbyte hphase hcount => ?_⟩
  · simp only [State.latchLevel, ho, latchLine_eq_of_inv (serial_inv_of_inv h ho)]
  · simp only [State.linkBit, ho, canShift_iff.mpr ⟨hphase, hcount⟩, if_true, linkBit_of_byte hbyte]

/-! ### The parallel outputs and the display in variant SERIAL -/

theorem serial_of_variant {s : State} (h : s.variant = .serial) : ∃ p, s.out = .serial p := by
  cases ho : s.out with
  | direct seg => simp [variant_of_direct ho] at h
  | serial p => exact ⟨p, rfl⟩

theorem drives_of_serial {s : State} {p : Serial} (h : s.out = .serial p) (sg : Segment) :
    s.drives sg = p.store.getLsbD (s.cfg.segQbit.pos sg) := by
  simp only [State.drives, h]

theorem parallelOut_of_serial {s : State} {p : Serial} (h : s.out = .serial p) (k : Fin 8) :
    s.parallelOut k = some (p.store.getLsbD k.val) := by
  simp only [State.parallelOut, h]

theorem mem_display {s : State} {sg : Segment} : sg ∈ s.display ↔ sg ∈ s.cfg.segments ∧ s.drives sg = true := by
  simp [State.display]

theorem serialEffect_store {s : State} {p q : Serial} {i : Instr} (h : SerialEffect s p i q) :
    q.store = p.store ∨ i = .latchSet ∨ i = .reset := by
  cases h with
  | reset => exact .inr (.inr rfl)
  | latchSet => exact .inr (.inl rfl)
  | kept | sample | shift | latchClear => exact .inl rfl

/-- Settles O49: the outputs and the display are functions of the storage stage, which LATCH_SET and RESET alone write. -/
theorem outputsChangeOnlyAtLatch : Obligations.OutputsChangeOnlyAtLatch := by
  unfold Obligations.OutputsChangeOnlyAtLatch
  intro i s t hvariant hexec hlatch hreset
  obtain ⟨-, he⟩ := effect_of_exec hexec
  obtain ⟨p, hp⟩ := serial_of_variant hvariant
  obtain ⟨q, hq, hser⟩ := serialEffect_of_effect he hp
  have hstore : q.store = p.store := (serialEffect_store hser).resolve_right (not_or.mpr ⟨hlatch, hreset⟩)
  have hdrives : t.drives = s.drives := by
    funext sg
    rw [drives_of_serial hq, drives_of_serial hp, hstore, effect_keeps_cfg he]
  refine ⟨?_, fun k => ?_⟩
  · rw [State.display, State.display, hdrives, effect_keeps_cfg he]
  · rw [parallelOut_of_serial hq, parallelOut_of_serial hp, hstore]

/-! ### The decimal point and the segment lines -/

theorem dp_not_mem_fontAt {c : Config} (hc : c.WellFormed) (d : Digit) : .dp ∉ c.fontAt d := by
  unfold Config.fontAt
  split
  · exact (hc.fontIsOfStrokes _ (by simp)).1
  · exact List.not_mem_nil

theorem mem_segments_of_ne_dp (c : Config) {sg : Segment} (h : sg ≠ .dp) : sg ∈ c.segments := by
  unfold Config.segments
  cases c.dpPresent <;> cases sg <;> simp [Segment.all, Segment.strokes] at h ⊢

theorem mem_segments_of_mem_fontAt {c : Config} (hc : c.WellFormed) {d : Digit} {sg : Segment} (h : sg ∈ c.fontAt d) :
    sg ∈ c.segments :=
  mem_segments_of_ne_dp c fun hdp => dp_not_mem_fontAt hc d (hdp ▸ h)

theorem romSrEntry_getLsbD_dp {c : Config} (hc : c.WellFormed) (d : Digit) :
    (romSrEntry c d).getLsbD (c.segQbit.pos .dp) = false := by
  rw [romSrEntry, orOfBits_map_pos_getLsbD_pos hc.qbitsInjective]
  exact decide_eq_false (dp_not_mem_fontAt hc d)

/-- Settles O53: the storage stage then holds an entry of ROM_SR, and no entry has the decimal point's bit. -/
theorem decimalPointOutputIsLow : Obligations.DecimalPointOutputIsLow := by
  unfold Obligations.DecimalPointOutputIsLow
  intro s ser h ho hidle hbyte
  obtain ⟨-, ⟨hnone, -⟩ | ⟨b, -, ⟨d, -, rfl⟩, -, hstore, -⟩⟩ :=
    (serial_inv_iff_of_idle hidle).mp (serial_inv_of_inv h ho)
  · exact absurd hnone hbyte
  · have hlow : ser.store.getLsbD (s.cfg.segQbit.pos .dp) = false := hstore ▸ romSrEntry_getLsbD_dp h.cfg d
    refine ⟨hlow, fun hmem => ?_⟩
    rw [mem_display, drives_of_serial ho, hlow] at hmem
    exact absurd hmem.2 Bool.false_ne_true

theorem drives_of_direct {s : State} {seg : PortWord} (h : s.out = .direct seg) (sg : Segment) :
    s.drives sg = seg.getLsbD (s.cfg.segPin.pos sg) := by
  simp only [State.drives, h]

/-- The batched write puts each present segment's line at the level FONT gives it, whatever it was (R171, R174). -/
theorem driveLines_getLsbD_pos {c : Config} (hc : c.WellFormed) (seg : PortWord) (d : Digit) {sg : Segment}
    (h : sg ∈ c.segments) :
    (driveLines c seg (romGpioEntry c d)).getLsbD (c.segPin.pos sg) = decide (sg ∈ c.fontAt d) := by
  have hmask : (segLineMask c).getLsbD (c.segPin.pos sg) = true :=
    (orOfBits_map_pos_getLsbD_iff c.segPin c.segments _).mpr ⟨sg, h, rfl⟩
  rw [driveLines, BitVec.getLsbD_or, BitVec.getLsbD_and, BitVec.getLsbD_not, hmask, romGpioEntry,
    orOfBits_map_pos_getLsbD_pos hc.pinsInjective]
  simp

/-- After the batched write of a digit's entry the display shows exactly that digit's segments (R55, R173). -/
theorem mem_display_of_driveLines {s : State} (hc : s.cfg.WellFormed) {seg : PortWord} {d : Digit}
    (ho : s.out = .direct (driveLines s.cfg seg (romGpioEntry s.cfg d))) (sg : Segment) :
    sg ∈ s.display ↔ sg ∈ s.cfg.fontAt d := by
  rw [mem_display, drives_of_direct ho]
  constructor
  · rintro ⟨hsg, hbit⟩
    rw [driveLines_getLsbD_pos hc seg d hsg] at hbit
    exact of_decide_eq_true hbit
  · intro hfont
    have hsg := mem_segments_of_mem_fontAt hc hfont
    exact ⟨hsg, (driveLines_getLsbD_pos hc seg d hsg).trans (decide_eq_true hfont)⟩

theorem exec_handlerOf (b : Button) (s : State) : exec (handlerOf b) s = handler b (encode (handlerOf b)) s := by
  cases b <;> rfl

theorem exec_handlerOf_accepted_direct {b : Button} {s : State} {seg : PortWord} (ha : s.acceptsNow b)
    (hd : s.digit.toNat ≤ 9) (ho : s.out = .direct seg) :
    exec (handlerOf b) s = .next
      ((s.accepted b).setOut (.direct (driveLines s.cfg seg (romGpioEntry s.cfg (stepDigit b s.digit))))) := by
  obtain ⟨hlive, hpending, haccepts⟩ := ha
  rw [exec_handlerOf]
  exact handler_next.mpr
    ⟨hlive, .inr (.inr ⟨hpending, haccepts, acceptEvent_next.mpr (.inr (.inl ⟨seg, ho, stepDigit_le hd, rfl⟩))⟩)⟩

/-- Settles O43: an accepted event's inline refresh is the batched write of the stepped digit. -/
theorem directDisplayFollowsDigit : Obligations.DirectDisplayFollowsDigit := by
  unfold Obligations.DirectDisplayFollowsDigit
  intro b s seg h ha ho
  refine ⟨_, exec_handlerOf_accepted_direct ha h.digit ho, s.accepted_digit b, fun sg => ?_⟩
  have hcfg : (s.accepted b).cfg = s.cfg := s.accepted_cfg b
  rw [mem_display_of_driveLines (seg := seg) (d := stepDigit b s.digit) (hcfg ▸ h.cfg) (by simp)]
  simp

end Sys2Proof.Machine
end

section
/-! PROOFS. The statements of 10_state about the counter, the pending flags and the two timestamps. -/

namespace Sys2Proof.Machine

/-! ### The counter -/

theorem runOps_cons_next_iff {i : Instr} {is : List Instr} {s t : State} :
    runOps (i :: is) s = .next t ↔ ∃ u, exec i s = .next u ∧ runOps is u = .next t := by
  rw [runOps]
  cases exec i s <;> simp

theorem exec_nowMs {i : Instr} {s t : State} (h : exec i s = .next t) (hreset : i ≠ .reset) :
    t.nowMs = if i = .tick then tickAdd s.cfg s.nowMs 1 else s.nowMs := by
  split
  case isTrue htick =>
    subst htick
    obtain ⟨-, rfl⟩ := execTick_next.mp h
    rfl
  case isFalse htick =>
    obtain hkept | ⟨rfl, -⟩ | ⟨rfl, -⟩ := effect_nowMs (effect_of_exec h).2
    · exact hkept
    · exact absurd rfl htick
    · exact absurd rfl hreset

/-- Settles O20, by induction on the operations: TICK alone moves the counter. -/
theorem timeIsCountedInTicks : Obligations.TimeIsCountedInTicks := by
  unfold Obligations.TimeIsCountedInTicks
  intro is
  induction is with
  | nil =>
    intro s t hlt h _
    cases h
    exact (Nat.mod_eq_of_lt hlt).symm
  | cons i is ih =>
    intro s t hlt h hreset
    obtain ⟨u, hexec, hrun⟩ := runOps_cons_next_iff.mp h
    rw [List.mem_cons, not_or] at hreset
    obtain ⟨hi, his⟩ := hreset
    have he := (effect_of_exec hexec).2
    have hu := ih u t (effect_keeps_cfg he ▸ effect_keeps_nowMs_lt he hlt) hrun his
    rw [hu, effect_keeps_cfg he, exec_nowMs hexec (Ne.symm hi), List.count_cons]
    by_cases htick : i = .tick
    · simp [htick, tickAdd, tickModulus, Nat.add_assoc, Nat.add_comm 1]
    · simp [htick]

/-! ### The pending flags -/

theorem exec_edgeOf {s : State} (h : s.Live) (b : Button) : exec (edgeOf b) s = .next (s.setPending b true) := by
  cases b with
  | inc => exact execEdgeInc_next.mpr ⟨h, rfl⟩
  | dec => exact execEdgeDec_next.mpr ⟨h, rfl⟩

theorem setPending_setPending (s : State) (b : Button) (v w : Bool) :
    (s.setPending b v).setPending b w = s.setPending b w := by
  cases b <;> rfl

theorem setPending_live {s : State} (h : s.Live) (b : Button) (v : Bool) : (s.setPending b v).Live := by
  simpa [State.Live] using h

/-- An edge while the flag is set is merged into the request that waits (R38). -/
theorem runOps_edges {s : State} (h : s.Live) (b : Button) (k : Nat) :
    runOps (List.replicate (k + 1) (edgeOf b)) s = .next (s.setPending b true) := by
  induction k generalizing s with
  | zero => exact runOps_cons_next (exec_edgeOf h b)
  | succ k ih =>
    rw [List.replicate_succ, runOps_cons_next (exec_edgeOf h b), ih (setPending_live h b true), setPending_setPending]

/-- A handler whose flag is set completes and clears it, whether it accepts or discards the event. -/
theorem exec_handlerOf_clears {b : Button} {s : State} (hlive : s.Live) (hp : s.pending b = true)
    (hd : s.digit.toNat ≤ 9) : ∃ t, exec (handlerOf b) s = .next t ∧ t.Live ∧ t.pending b = false := by
  cases ha : s.accepts b with
  | false =>
    have hnext : handler b (encode (handlerOf b)) s = .next (s.setPending b false) :=
      handler_next.mpr ⟨hlive, .inr (.inl ⟨hp, ha, rfl⟩)⟩
    exact ⟨_, (exec_handlerOf b s).trans hnext, setPending_live hlive b false, s.setPending_pending_self b false⟩
  | true =>
    cases ho : s.out with
    | direct seg =>
      exact ⟨_, exec_handlerOf_accepted_direct ⟨hlive, hp, ha⟩ hd ho, by simpa [State.Live] using hlive, by simp⟩
    | serial p =>
      have hnext : handler b (encode (handlerOf b)) s = .next (s.accepted b) :=
        handler_next.mpr ⟨hlive, .inr (.inr ⟨hp, ha, acceptEvent_next.mpr (.inl ⟨variant_of_serial ho, rfl⟩)⟩)⟩
      exact ⟨_, (exec_handlerOf b s).trans hnext, by simpa [State.Live] using hlive, s.accepted_pending_self b⟩

theorem exec_handlerOf_not_pending {b : Button} {s : State} (hlive : s.Live) (hp : s.pending b = false) :
    exec (handlerOf b) s = .next { s with fault := [.seqHandler (encode (handlerOf b)) false] } := by
  rw [exec_handlerOf, ← addFault_of_live hlive.1]
  exact handler_next.mpr ⟨hlive, .inl ⟨hp, rfl⟩⟩

/-- Settles O19: the flag is one bit, so the merged edges leave one request and the handler takes it. -/
theorem mergedEdgesAreOneRequest : Obligations.MergedEdgesAreOneRequest := by
  unfold Obligations.MergedEdgesAreOneRequest
  intro b s k hlive hd
  obtain ⟨t, hexec, hlive', hclear⟩ := exec_handlerOf_clears (b := b) (setPending_live hlive b true)
    (s.setPending_pending_self b true) (by simpa using hd)
  refine ⟨runOps_edges hlive b k, t, ?_, hlive', hclear, exec_handlerOf_not_pending hlive' hclear⟩
  rw [runOps_append (runOps_edges hlive b k)]
  exact runOps_cons_next hexec

/-! ### The timestamps -/

section
variable (s : State) {b c : Button} (x : Nat)

theorem accepts_setLast_of_ne (h : b ≠ c) : (s.setLast c x).accepts b = s.accepts b := by
  rw [Bool.eq_iff_iff, accepts_iff, accepts_iff, setLast_last_of_ne s h, State.setLast_nowMs, State.setLast_cfg]

theorem setPending_setLast (v : Bool) : (s.setLast c x).setPending b v = (s.setPending b v).setLast c x := by
  cases b <;> cases c <;> rfl

theorem accepted_setLast_of_ne (h : b ≠ c) : (s.setLast c x).accepted b = (s.accepted b).setLast c x := by
  cases b <;> cases c
  case inc.dec | dec.inc => rfl
  all_goals exact absurd rfl h

theorem addFault_setLast (r : FaultRecord) : (s.setLast c x).addFault r = (s.addFault r).setLast c x := by
  cases c <;> rfl

theorem setOut_setLast (o : OutputStage) : (s.setLast c x).setOut o = (s.setOut o).setLast c x := by
  cases c <;> rfl

end

theorem acceptEvent_setLast_of_ne {s t : State} {b c : Button} (hne : b ≠ c) (x : Nat) (h : acceptEvent b s = .next t) :
    acceptEvent b (s.setLast c x) = .next (t.setLast c x) := by
  have hvariant : (s.setLast c x).variant = s.variant := variant_eq_of_out_eq (s.setLast_out c x)
  rw [acceptEvent_next, hvariant]
  simp only [State.setLast_out, State.setLast_digit, State.setLast_cfg, accepted_setLast_of_ne s x hne, setOut_setLast,
    addFault_setLast]
  obtain ⟨hv, rfl⟩ | ⟨seg, ho, hd, rfl⟩ | ⟨hv, hd, rfl⟩ := acceptEvent_next.mp h
  · exact .inl ⟨hv, rfl⟩
  · exact .inr (.inl ⟨seg, ho, hd, rfl⟩)
  · exact .inr (.inr ⟨hv, hd, rfl⟩)

/-- The handler of one button does not read the other button's timestamp (R35). -/
theorem handler_setLast_of_ne {s t : State} {b c : Button} {w : Word} (hne : b ≠ c) (x : Nat)
    (h : handler b w s = .next t) : handler b w (s.setLast c x) = .next (t.setLast c x) := by
  obtain ⟨hlive, hcases⟩ := handler_next.mp h
  have hlive' : (s.setLast c x).Live := by simpa [State.Live] using hlive
  refine handler_next.mpr ⟨hlive', ?_⟩
  simp only [State.setLast_pending, accepts_setLast_of_ne s x hne, setPending_setLast, addFault_setLast]
  obtain ⟨hp, rfl⟩ | ⟨hp, ha, rfl⟩ | ⟨hp, ha, hacc⟩ := hcases
  · exact .inl ⟨hp, rfl⟩
  · exact .inr (.inl ⟨hp, ha, rfl⟩)
  · exact .inr (.inr ⟨hp, ha, acceptEvent_setLast_of_ne hne x hacc⟩)

theorem exec_handlerOf_keeps_last {s t : State} {b c : Button} (hne : b ≠ c) (h : exec (handlerOf b) s = .next t) :
    t.last c = s.last c := by
  obtain hkept | ⟨hi, -⟩ | ⟨hi, -⟩ := effect_last (effect_of_exec h).2 c
  · exact hkept
  · exact absurd (handlerOf_injective hi) hne
  · exact absurd hi (handlerOf_ne_reset b)

/-- Settles O27: of the other button's timestamp a handler has neither a write nor a read. -/
theorem guardWindowsAreIndependent : Obligations.GuardWindowsAreIndependent := by
  unfold Obligations.GuardWindowsAreIndependent
  have hne : Button.inc ≠ Button.dec := by decide
  intro s x
  exact ⟨fun t h => ⟨exec_handlerOf_keeps_last (b := .inc) hne h, handler_setLast_of_ne hne x h⟩,
    fun t h => ⟨exec_handlerOf_keeps_last (b := .dec) hne.symm h, handler_setLast_of_ne hne.symm x h⟩⟩

end Sys2Proof.Machine
end

section
/-! PROOFS. The statements of 20_memory: the batched write of the segment lines, and the atomic steps. -/

namespace Sys2Proof.Machine

/-! ### The batched write -/

theorem orOfBits_map_pos_getLsbD_of_ne {w : Nat} {m : SegMap w} {l : List Segment} {i : Nat}
    (h : ∀ sg ∈ l, m.pos sg ≠ i) : (orOfBits w (l.map m.pos)).getLsbD i = false := by
  rw [Bool.eq_false_iff, ne_eq, orOfBits_map_pos_getLsbD_iff]
  rintro ⟨sg, hsg, hpos⟩
  exact h sg hsg hpos

/-- ROM_GPIO holds lines of present segments only, so the write leaves every other bit of the port (R172). -/
theorem driveLines_getLsbD_of_no_segment {c : Config} (hc : c.WellFormed) (seg : PortWord) (d : Digit) {i : Nat}
    (h : ∀ sg ∈ c.segments, c.segPin.pos sg ≠ i) :
    (driveLines c seg (romGpioEntry c d)).getLsbD i = seg.getLsbD i := by
  have hmask : (segLineMask c).getLsbD i = false := orOfBits_map_pos_getLsbD_of_ne h
  have hentry : (romGpioEntry c d).getLsbD i = false :=
    orOfBits_map_pos_getLsbD_of_ne fun sg hfont => h sg (mem_segments_of_mem_fontAt hc hfont)
  rw [driveLines, BitVec.getLsbD_or, BitVec.getLsbD_and, BitVec.getLsbD_not, hmask, hentry]
  simpa using BitVec.lt_of_getLsbD

theorem driveLines_idempotent (c : Config) (seg m : PortWord) :
    driveLines c (driveLines c seg m) m = driveLines c seg m := by
  refine BitVec.eq_of_getLsbD_eq fun i hi => ?_
  simp only [driveLines, BitVec.getLsbD_or, BitVec.getLsbD_and]
  cases m.getLsbD i <;> simp

theorem exec_presentDirect_of_direct {s : State} {seg : PortWord} {d : Digit} (hlive : s.Live)
    (ho : s.out = .direct seg) (hd : d.toNat ≤ 9) :
    exec (.presentDirect d) s = .next (s.setOut (.direct (driveLines s.cfg seg (romGpioEntry s.cfg d)))) :=
  execPresentDirect_next.mpr ⟨hlive, .inl ⟨seg, ho, .inl ⟨hd, rfl⟩⟩⟩

/-- Settles O41: the write keeps every bit that is no present segment's and sets the others from the digit's entry alone, so a
second write finds each line at the level it would set. -/
theorem batchedWriteDrivesOnlySegmentLines : Obligations.BatchedWriteDrivesOnlySegmentLines := by
  unfold Obligations.BatchedWriteDrivesOnlySegmentLines
  intro s seg d hlive hc ho hd
  refine ⟨_, _, exec_presentDirect_of_direct hlive ho hd, rfl, fun i => driveLines_getLsbD_of_no_segment hc seg d,
    fun sg => driveLines_getLsbD_pos hc seg d, ?_⟩
  rw [exec_presentDirect_of_direct (by exact hlive) (State.setOut_out _ _) hd, State.setOut_cfg, driveLines_idempotent]
  rfl

/-! ### An accepted event in one step -/

/-- The state after the whole of an accepted event: the Debouncer's writes, and in variant DIRECT the lines of the new digit
(R141, R147, R149). -/
def State.afterAccept (s : State) (b : Button) : State :=
  match s.out with
  | .serial _ => s.accepted b
  | .direct seg => (s.accepted b).setOut (.direct (driveLines s.cfg seg (romGpioEntry s.cfg (stepDigit b s.digit))))

section
variable {s : State} {b : Button}

theorem afterAccept_of_serial (h : s.variant = .serial) : s.afterAccept b = s.accepted b := by
  obtain ⟨p, hp⟩ := serial_of_variant h
  rw [State.afterAccept, hp]

theorem afterAccept_of_direct {seg : PortWord} (h : s.out = .direct seg) :
    s.afterAccept b =
      (s.accepted b).setOut (.direct (driveLines s.cfg seg (romGpioEntry s.cfg (stepDigit b s.digit)))) := by
  rw [State.afterAccept, h]

/-- Of the accepted event's state only the output stage depends on the variant. -/
theorem afterAccept_eq_setOut (s : State) (b : Button) : ∃ o, s.afterAccept b = (s.accepted b).setOut o := by
  cases ho : s.out with
  | serial p => exact ⟨(s.accepted b).out, afterAccept_of_serial (variant_of_serial ho)⟩
  | direct seg => exact ⟨_, afterAccept_of_direct ho⟩

theorem afterAccept_digit (s : State) (b : Button) : (s.afterAccept b).digit = stepDigit b s.digit := by
  obtain ⟨o, h⟩ := afterAccept_eq_setOut s b
  simp [h]

theorem afterAccept_last_self (s : State) (b : Button) : (s.afterAccept b).last b = s.nowMs := by
  obtain ⟨o, h⟩ := afterAccept_eq_setOut s b
  simp [h]

theorem afterAccept_pending_self (s : State) (b : Button) : (s.afterAccept b).pending b = false := by
  obtain ⟨o, h⟩ := afterAccept_eq_setOut s b
  simp [h]

/-- The display follows the digit in the same step, at the clamp too (R79, R142, R148). -/
theorem mem_display_afterAccept (hc : s.cfg.WellFormed) {seg : PortWord} (ho : s.out = .direct seg) (sg : Segment) :
    sg ∈ (s.afterAccept b).display ↔ sg ∈ s.cfg.fontAt (stepDigit b s.digit) := by
  have hcfg : (s.afterAccept b).cfg = s.cfg := by simp [afterAccept_of_direct ho]
  rw [← hcfg]
  refine mem_display_of_driveLines (seg := seg) (hcfg ▸ hc) ?_ sg
  simp [afterAccept_of_direct ho]

theorem exec_handlerOf_accepted (ha : s.acceptsNow b) (hd : s.digit.toNat ≤ 9) :
    exec (handlerOf b) s = .next (s.afterAccept b) := by
  cases ho : s.out with
  | direct seg => rw [exec_handlerOf_accepted_direct ha hd ho, afterAccept_of_direct ho]
  | serial p =>
    have hv := variant_of_serial ho
    obtain ⟨hlive, hp, hacc⟩ := ha
    rw [exec_handlerOf, afterAccept_of_serial hv]
    exact handler_next.mpr ⟨hlive, .inr (.inr ⟨hp, hacc, acceptEvent_next.mpr (.inl ⟨hv, rfl⟩)⟩)⟩

end

/-! ### What a changed element says of the operation -/

section
variable {s t : State} {i : Instr}

theorem afterAccept_of_digit_ne (h : exec i s = .next t) (hreset : i ≠ .reset) (hne : t.digit ≠ s.digit) :
    ∃ b, i = handlerOf b ∧ s.acceptsNow b ∧ t = s.afterAccept b := by
  obtain ⟨hlive, he⟩ := effect_of_exec h
  cases he with
  | reset => exact absurd rfl hreset
  | acceptSerial _ b hi hp ha hv => exact ⟨b, hi, ⟨hlive, hp, ha⟩, (afterAccept_of_serial hv).symm⟩
  | acceptDirect _ b hi seg hp ha ho => exact ⟨b, hi, ⟨hlive, hp, ha⟩, (afterAccept_of_direct ho).symm⟩
  | edgeInc | edgeDec | discard => exact absurd (s.setPending_digit _ _) hne
  | fault | tick | romGpio | romSr | present | sample | shift | latchSet | latchClear => exact absurd rfl hne

/-- Only SR_SAMPLE loads a byte, and it loads the entry of the digit it leaves in place (R75, R175). -/
theorem sample_of_byte_ne {p q : Serial} (h : exec i s = .next t) (hreset : i ≠ .reset) (hp : s.out = .serial p)
    (hq : t.out = .serial q) (hne : q.byte ≠ p.byte) :
    i = .srSample ∧ q = p.sample (romSrEntry s.cfg s.digit) ∧ t.digit = s.digit := by
  have he := (effect_of_exec h).2
  obtain ⟨q', hq', hser⟩ := serialEffect_of_effect he hp
  cases hq.symm.trans hq'
  cases hser with
  | sample hidle hd =>
    obtain hkept | ⟨b, hi, -⟩ | ⟨hi, -⟩ := effect_digit he
    · exact ⟨rfl, rfl, hkept⟩
    · cases b <;> cases hi
    · cases hi
  | reset => exact absurd rfl hreset
  | kept | shift | latchSet | latchClear => exact absurd rfl hne

/-- Segment lines that change do so in one write of all of them, from the entry of a digit in 0..9 (R76). -/
theorem driveLines_of_out_ne {seg : PortWord} (h : exec i s = .next t) (hreset : i ≠ .reset) (hseg : s.out = .direct seg)
    (hne : t.out ≠ s.out) :
    ∃ d : Digit, d.toNat ≤ 9 ∧ t.out = .direct (driveLines s.cfg seg (romGpioEntry s.cfg d)) := by
  cases (effect_of_exec h).2 with
  | reset => exact absurd rfl hreset
  | acceptDirect _ b hi seg' hp ha ho hd =>
    cases hseg.symm.trans ho
    exact ⟨_, hd, rfl⟩
  | present d seg' ho hd =>
    cases hseg.symm.trans ho
    exact ⟨d, hd, rfl⟩
  | sample ser ho | shift ser ho | latchSet ser ho | latchClear ser ho => cases hseg.symm.trans ho
  | acceptSerial _ b => exact absurd (s.accepted_out b) hne
  | edgeInc | edgeDec | discard => exact absurd (s.setPending_out _ _) hne
  | fault | tick | romGpio | romSr => exact absurd rfl hne

end

/-! ### From the operation to the step that fetches it -/

section
variable (s : State)

theorem fetch_digit : (fetch s).2.digit = s.digit := by
  obtain h | ⟨rest, h⟩ := fetch_keeps s <;> rw [h]
  exact s.tookDraw_digit

theorem fetch_nowMs : (fetch s).2.nowMs = s.nowMs := by
  obtain h | ⟨rest, h⟩ := fetch_keeps s <;> rw [h]
  exact s.tookDraw_nowMs

theorem fetch_out : (fetch s).2.out = s.out := by
  obtain h | ⟨rest, h⟩ := fetch_keeps s <;> rw [h]
  exact s.tookDraw_out

theorem fetch_acceptsNow (b : Button) : (fetch s).2.acceptsNow b ↔ s.acceptsNow b := by
  obtain h | ⟨rest, h⟩ := fetch_keeps s <;> rw [h] <;> exact Iff.rfl

end

theorem step_of_stream_cons {s : State} {w : Word} {rest : List Word} {i : Instr} (h : s.stream = w :: rest)
    (hw : decode w = .ok i) : step s = exec i { s with stream := rest } := by
  simp only [step, fetch_of_cons h, hw]

theorem decode_encode_handlerOf (b : Button) : decode (encode (handlerOf b)) = .ok (handlerOf b) := by
  cases b <;> decide

section
variable {s t : State}

/-- A step executes an operation, or it is the refusal of a reserved word, which leaves digit and outputs (R225). -/
theorem exec_or_kept_of_step (h : step s = .next t) :
    (∃ i, (fetch s).1 = .ok i ∧ exec i (fetch s).2 = .next t) ∨ (t.digit = s.digit ∧ t.out = s.out) := by
  obtain hexec | ⟨-, hrefuse⟩ := step_next_cases h
  · exact .inl hexec
  · obtain ⟨-, rfl⟩ := refuseWord_next.mp hrefuse
    exact .inr ⟨fetch_digit s, fetch_out s⟩

/-- A step that changes the digit is the whole of an accepted event (R79, R80). -/
theorem step_of_digit_ne (h : s.Inv) (hstep : step s = .next t) (hreset : (fetch s).1 ≠ .ok .reset)
    (hne : t.digit ≠ s.digit) :
    ∃ b, (fetch s).1 = .ok (handlerOf b) ∧ s.acceptsNow b ∧ t.digit = stepDigit b s.digit ∧
      t.last b = s.nowMs ∧ t.pending b = false ∧
      ∀ seg, s.out = .direct seg → ∀ sg, sg ∈ t.display ↔ sg ∈ s.cfg.fontAt t.digit := by
  obtain ⟨i, hi, hexec⟩ | ⟨hdigit, -⟩ := exec_or_kept_of_step hstep
  · rw [hi, ne_eq, Except.ok.injEq] at hreset
    rw [← fetch_digit s] at hne
    obtain ⟨b, rfl, ha, rfl⟩ := afterAccept_of_digit_ne hexec hreset hne
    refine ⟨b, hi, (fetch_acceptsNow s b).mp ha, ?_, ?_, afterAccept_pending_self _ b, fun seg hseg sg => ?_⟩
    · rw [afterAccept_digit, fetch_digit]
    · rw [afterAccept_last_self, fetch_nowMs]
    · rw [afterAccept_digit, ← fetch_cfg s]
      exact mem_display_afterAccept (fetch_keeps_inv h).cfg ((fetch_out s).trans hseg) sg
  · exact absurd hdigit hne

/-- A step that changes the byte is SR_SAMPLE's, with the whole digit read (R75, R80). -/
theorem step_of_byte_ne {p q : Serial} (hstep : step s = .next t) (hreset : (fetch s).1 ≠ .ok .reset)
    (hp : s.out = .serial p) (hq : t.out = .serial q) (hne : q.byte ≠ p.byte) :
    (fetch s).1 = .ok .srSample ∧ q = p.sample (romSrEntry s.cfg s.digit) ∧ t.digit = s.digit := by
  obtain ⟨i, hi, hexec⟩ | ⟨-, hout⟩ := exec_or_kept_of_step hstep
  · rw [hi, ne_eq, Except.ok.injEq] at hreset
    obtain ⟨rfl, hsample, hdigit⟩ := sample_of_byte_ne hexec hreset ((fetch_out s).trans hp) hq hne
    rw [fetch_cfg, fetch_digit] at hsample
    exact ⟨hi, hsample, hdigit.trans (fetch_digit s)⟩
  · rw [hp, hq, OutputStage.serial.injEq] at hout
    exact absurd (congrArg Serial.byte hout) hne

/-- A step that changes a segment line leaves the lines showing one digit (R76). -/
theorem step_of_lines_ne {seg : PortWord} (h : s.Inv) (hstep : step s = .next t)
    (hreset : (fetch s).1 ≠ .ok .reset) (hseg : s.out = .direct seg) (hne : t.out ≠ s.out) :
    ∃ d : Digit, d.toNat ≤ 9 ∧ ∀ sg, sg ∈ t.display ↔ sg ∈ s.cfg.fontAt d := by
  obtain ⟨i, hi, hexec⟩ | ⟨-, hout⟩ := exec_or_kept_of_step hstep
  · rw [hi, ne_eq, Except.ok.injEq] at hreset
    rw [← fetch_out s] at hne hseg
    obtain ⟨d, hd, ht⟩ := driveLines_of_out_ne hexec hreset hseg hne
    have hcfg : t.cfg = s.cfg := (step_keeps_variant_and_cfg hstep).2
    rw [fetch_cfg, ← hcfg] at ht
    exact ⟨d, hd, hcfg ▸ mem_display_of_driveLines (hcfg ▸ h.cfg) ht⟩
  · exact absurd hout hne

end

/-- Settles O60: what changed tells the operation the step fetched, and that operation's step is its whole effect. -/
theorem stepsAreAtomic : Obligations.StepsAreAtomic := by
  unfold Obligations.StepsAreAtomic
  refine ⟨fun s t h hstep hreset => ⟨step_of_digit_ne h hstep hreset, fun p q hp hq hne => ?_,
    fun seg => step_of_lines_ne h hstep hreset⟩, ?_, ?_⟩
  · obtain ⟨hfetch, rfl, hdigit⟩ := step_of_byte_ne hstep hreset hp hq hne
    exact ⟨hfetch, rfl, rfl, rfl, hdigit⟩
  · rintro b s rest h ha hstream u rfl
    have hstep : step s = .next (({ s with stream := rest } : State).afterAccept b) :=
      (step_of_stream_cons hstream (decode_encode_handlerOf b)).trans (exec_handlerOf_accepted ha h.digit)
    exact ⟨fun seg ho => ⟨_, hstep, afterAccept_of_direct ho, mem_display_afterAccept h.cfg ho⟩,
      fun ser ho => hstep.trans (congrArg Host.Outcome.next (afterAccept_of_serial (variant_of_serial ho)))⟩
  · intro s rest p h hlive ho hidle hstream
    rw [step_of_stream_cons (i := .srSample) hstream (by decide)]
    exact execSrSample_next.mpr ⟨hlive, .inl ⟨p, ho, .inl ⟨hidle, .inl ⟨h.digit, rfl⟩⟩⟩⟩

end Sys2Proof.Machine
end

section
/-! PROOFS. The statements of 30_encoding about the operation words: the two fields of a word, decode and encode, the reserved
words. -/

namespace Sys2Proof.Machine

/-! ### The fields of a word (R95) -/

@[simp] theorem opField_append (op : BitVec 4) (arg : Digit) : opField (op ++ arg) = op :=
  BitVec.extractLsb'_append_eq_left

@[simp] theorem argField_append (op : BitVec 4) (arg : Digit) : argField (op ++ arg) = arg :=
  BitVec.extractLsb'_append_eq_right

theorem opField_append_argField (w : Word) : opField w ++ argField w = w :=
  BitVec.extractLsb'_append_extractLsb'_eq_extractLsb' rfl |>.trans w.extractLsb'_eq_self

theorem toNat_eq_fields (w : Word) : w.toNat = 16 * (opField w).toNat + (argField w).toNat := by
  simp only [opField, argField, BitVec.extractLsb'_toNat, Nat.shiftRight_eq_div_pow]
  omega

theorem opField_encode (i : Instr) : opField (encode i) = i.opcode := opField_append _ _

theorem argField_encode (i : Instr) : argField (encode i) = i.argument := argField_append _ _

/-! ### The operand checks of the decoder (R97, R98) -/

theorem mustBeZero_eq_ok {arg : Digit} {i j : Instr} : mustBeZero arg i = .ok j ↔ 0#4 = arg ∧ i = j := by
  unfold mustBeZero
  split <;> simp [*, eq_comm]

theorem mustBeZero_eq_error {arg : Digit} {i : Instr} : mustBeZero arg i = .error .reservedWord ↔ 0 < arg.toNat := by
  unfold mustBeZero
  split
  · simp [*]
  · rw [eq_self, true_iff]
    bv_omega

theorem lineSelect_eq_ok {arg : Digit} {inc dec j : Instr} :
    lineSelect arg inc dec = .ok j ↔ (0#4 = arg ∧ inc = j) ∨ (1#4 = arg ∧ dec = j) := by
  unfold lineSelect
  split
  · simp [*]
  · split <;> simp [*, eq_comm]

theorem lineSelect_eq_error {arg : Digit} {inc dec : Instr} :
    lineSelect arg inc dec = .error .reservedWord ↔ 1 < arg.toNat := by
  unfold lineSelect
  split
  · simp [*]
  split
  · simp [*]
  · rw [eq_self, true_iff]
    bv_omega

/-! ### Decode and encode agree -/

theorem decode_encode (i : Instr) : decode (encode i) = .ok i := by
  rw [decode, opField_encode, argField_encode]
  cases i <;> rfl

theorem fields_of_decode {w : Word} {i : Instr} (h : decode w = .ok i) :
    i.opcode = opField w ∧ i.argument = argField w := by
  unfold decode at h
  split at h
  case h_12 => cases h
  -- a digit operand
  case h_5 hop | h_6 hop | h_7 hop =>
    cases h
    exact ⟨(BitVec.eq_of_toNat_eq hop).symm, rfl⟩
  -- a line selector
  case h_3 hop | h_4 hop =>
    obtain ⟨harg, rfl⟩ | ⟨harg, rfl⟩ := lineSelect_eq_ok.mp h <;>
      exact ⟨(BitVec.eq_of_toNat_eq hop).symm, harg⟩
  -- an operand field that is zero
  case h_1 hop | h_2 hop | h_8 hop | h_9 hop | h_10 hop | h_11 hop =>
    obtain ⟨harg, rfl⟩ := mustBeZero_eq_ok.mp h
    exact ⟨(BitVec.eq_of_toNat_eq hop).symm, harg⟩

theorem eq_encode_of_decode {w : Word} {i : Instr} (h : decode w = .ok i) : w = encode i := by
  obtain ⟨hop, harg⟩ := fields_of_decode h
  rw [encode, hop, harg, opField_append_argField]

/-- Settles O1: a word is its two fields, and the decoder reads from them the operation whose fields they are. -/
theorem decodeEncodeAgree : Obligations.DecodeEncodeAgree := by
  unfold Obligations.DecodeEncodeAgree
  intro i w
  constructor
  · exact eq_encode_of_decode
  · rintro rfl
    exact decode_encode i

/-- Settles O3: nine of the words are their operations' own, and 0x3F is a handler word with a line selector above 1. -/
theorem sampleWordsDecode : Obligations.SampleWordsDecode :=
  ⟨decode_encode .reset, decode_encode .tick, decode_encode .edgeDec, decode_encode .isrInc, decode_encode (.romGpio 10#4),
    decode_encode (.romSr 15#4), decode_encode (.presentDirect 3#4), decode_encode .srShift, decode_encode .latchClear,
    by decide⟩

/-! ### The reserved words (R100) -/

theorem decode_eq_error_iff (w : Word) : decode w = .error .reservedWord ↔
    ((0x01 ≤ w.toNat ∧ w.toNat ≤ 0x0F) ∨ (0x11 ≤ w.toNat ∧ w.toNat ≤ 0x1F) ∨ (0x22 ≤ w.toNat ∧ w.toNat ≤ 0x2F) ∨
     (0x32 ≤ w.toNat ∧ w.toNat ≤ 0x3F) ∨ (0x71 ≤ w.toNat ∧ w.toNat ≤ 0x7F) ∨ (0x81 ≤ w.toNat ∧ w.toNat ≤ 0x8F) ∨
     (0x91 ≤ w.toNat ∧ w.toNat ≤ 0x9F) ∨ (0xA1 ≤ w.toNat ∧ w.toNat ≤ 0xAF) ∨ (0xB0 ≤ w.toNat ∧ w.toNat ≤ 0xFF)) := by
  have hw : w.toNat = 16 * (opField w).toNat + (argField w).toNat := toNat_eq_fields w
  have hop : (opField w).toNat < 16 := (opField w).isLt
  have harg : (argField w).toNat < 16 := (argField w).isLt
  unfold decode
  split
  case h_12 =>
    simp only [imp_false, true_iff] at *
    omega
  case h_5 | h_6 | h_7 =>
    simp only [reduceCtorEq, false_iff]
    omega
  case h_3 | h_4 =>
    rw [lineSelect_eq_error]
    omega
  case h_1 | h_2 | h_8 | h_9 | h_10 | h_11 =>
    rw [mustBeZero_eq_error]
    omega

theorem countP_range_mul (p : Nat → Bool) (k m : Nat) :
    (List.range (k * m)).countP p = ((List.range m).map fun j => (List.range k).countP fun i => p (k * j + i)).sum := by
  induction m with
  | zero => rfl
  | succ m ih =>
    rw [Nat.mul_succ, List.range_add, List.countP_append, ih, List.countP_map, List.range_succ, List.map_append,
      List.sum_append, List.map_singleton, List.sum_singleton]
    rfl

/-- Counted row by row: sixteen operand fields under each of sixteen operation codes. -/
theorem reservedWord_count :
    (List.range 256).countP (fun n => decode (BitVec.ofNat 8 n) = .error .reservedWord) = 198 := by
  rw [show 256 = 16 * 16 from rfl, countP_range_mul]
  decide

theorem step_of_reserved {s : State} {w : Word} {rest : List Word} (hlive : s.Live)
    (h : s.stream = w :: rest) (hw : decode w = .error .reservedWord) :
    step s = .next { s with stream := rest, refused := true } := by
  simp only [step, fetch_of_cons h, hw]
  exact refuseWord_next.mpr ⟨hlive, rfl⟩

/-- Settles O2: the ranges follow from the operand checks opcode by opcode. -/
theorem reservedWordsSetRefused : Obligations.ReservedWordsSetRefused := by
  unfold Obligations.ReservedWordsSetRefused
  exact ⟨decode_eq_error_iff, reservedWord_count, fun _ _ _ => step_of_reserved⟩

end Sys2Proof.Machine
end

section
/-! PROOFS. The statements of 30_encoding about data: the constraints on the two ROM tables, for every admissible choice of the
parameters. -/

namespace Sys2Proof.Machine

theorem orOfBits_congr {is js : List Nat} (h : ∀ i, i ∈ is ↔ i ∈ js) (w : Nat) : orOfBits w is = orOfBits w js := by
  apply BitVec.eq_of_getLsbD_eq
  intro i _
  simp only [orOfBits_getLsbD, h]

section
variable {c : Config} (hc : c.WellFormed)
include hc

theorem romGpioEntry_getLsbD_dp (d : Digit) : (romGpioEntry c d).getLsbD (c.segPin.pos .dp) = false := by
  rw [romGpioEntry, orOfBits_map_pos_getLsbD_pos hc.pinsInjective]
  exact decide_eq_false (dp_not_mem_fontAt hc d)

/-- A lit segment is a present one, so its line is in the mask (R103, R126). -/
theorem segLineMask_of_romGpioEntry {d : Digit} {i : Nat} (h : (romGpioEntry c d).getLsbD i = true) :
    (segLineMask c).getLsbD i = true := by
  obtain ⟨sg, hfont, hpos⟩ := (orOfBits_map_pos_getLsbD_iff _ _ _).mp h
  exact (orOfBits_map_pos_getLsbD_iff _ _ _).mpr ⟨sg, mem_segments_of_mem_fontAt hc hfont, hpos⟩

theorem romGpioEntry_and_not_segLineMask (d : Digit) : romGpioEntry c d &&& ~~~ segLineMask c = 0 := by
  apply BitVec.eq_of_getLsbD_eq
  intro i _
  rw [BitVec.getLsbD_and, BitVec.getLsbD_not]
  cases hi : (romGpioEntry c d).getLsbD i
  · simp
  · simp [segLineMask_of_romGpioEntry hc hi]

theorem mem_fontAt_one (sg : Segment) : sg ∈ c.fontAt 1#4 ↔ sg = .b ∨ sg = .c :=
  hc.fontOneIsBC sg (by cases sg <;> decide)

/-- FONT(1) lights b and c alone, in any order (R11). -/
theorem orOfBits_fontAt_one {n : Nat} (m : SegMap n) (w : Nat) :
    orOfBits w ((c.fontAt 1#4).map m.pos) = orOfBits w [m.b.val, m.c.val] := by
  apply orOfBits_congr
  simp [mem_fontAt_one hc, SegMap.pos, eq_comm]

theorem romGpioEntry_one : romGpioEntry c 1#4 = 0x0600#16 := by
  rw [romGpioEntry, orOfBits_fontAt_one hc]
  obtain ⟨hb, hcc⟩ | ⟨hb, hcc⟩ := hc.pinsOfBC <;> rw [hb, hcc] <;> decide

theorem romSrEntry_one : romSrEntry c 1#4 = 0x03#8 := by
  rw [romSrEntry, orOfBits_fontAt_one hc]
  obtain ⟨hb, hcc⟩ | ⟨hb, hcc⟩ := hc.qbitsOfBC <;> rw [hb, hcc] <;> decide

end

/-- Settles O36: FONT lights strokes only, which are present and are not the point, and FONT(1) is b and c on their two bits. -/
theorem tablesMeetTheirConstraints : Obligations.TablesMeetTheirConstraints := by
  unfold Obligations.TablesMeetTheirConstraints
  intro c hc
  exact ⟨fun d _ => ⟨romGpioEntry_and_not_segLineMask hc d, romGpioEntry_getLsbD_dp hc d, romSrEntry_getLsbD_dp hc d⟩,
    romGpioEntry_one hc, romSrEntry_one hc⟩

end Sys2Proof.Machine
end

section
/-! PROOFS. The statements of 30_encoding about programs: their assembly text, the pseudo-instructions, and a program's run. -/

namespace Sys2Proof.Machine

/-! ### A program's run (R106, R208) -/

theorem withProgram_nil_of_exec {i : Instr} {s t : State} (h : exec i (s.withProgram []) = .next t) :
    t.withProgram [] = t := by
  obtain ⟨-, heffect⟩ := effect_of_exec h
  have hstream : t.stream = [] := effect_keeps_stream heffect
  rw [State.withProgram, ← hstream]

theorem step_withProgram (i : Instr) (ws : List Word) (s : State) :
    step (s.withProgram (encode i :: ws)) = mapNext (·.withProgram ws) (exec i (s.withProgram [])) :=
  (step_of_stream_cons rfl (decode_encode i)).trans (exec_withStream i (s.withProgram []) ws)

/-- A run of the words of `is` is the execution of `is`: each step takes its own word and executes it beside the rest. -/
theorem runSteps_encode (is : List Instr) (s : State) :
    runSteps is.length (s.withProgram (is.map encode)) = runOps is (s.withProgram []) := by
  induction is generalizing s with
  | nil => rfl
  | cons i is ih =>
    simp only [List.length_cons, List.map_cons, runSteps, runOps, step_withProgram]
    cases h : exec i (s.withProgram []) with
    | next t => exact (ih t).trans (congrArg (runOps is) (withProgram_nil_of_exec h))
    | fault r => rfl
    | refused r => rfl

/-- Settles O7, by induction on the program's operations. -/
theorem programRunIsItsOperations : Obligations.ProgramRunIsItsOperations := by
  unfold Obligations.ProgramRunIsItsOperations
  intro p s
  rw [assemble, List.length_map]
  exact runSteps_encode _ s

/-! ### The words of a program (R105) -/

theorem assemble_append (p q : List AsmLine) : assemble (p ++ q) = assemble p ++ assemble q := by
  simp [assemble]

theorem assemble_op (i : Instr) : assemble [.op i] = [encode i] := rfl

theorem assemble_ticks (n : Nat) : assemble [.ticks n] = List.replicate n 0x10#8 := by
  rw [assemble, List.flatMap_singleton]
  exact List.map_replicate

/-! ### A line of text (R104) -/

theorem splitLines_of_no_newline {cs : List Char} (h : '\n' ∉ cs) : splitLines cs = [cs] := by
  induction cs with
  | nil => rfl
  | cons ch cs ih =>
    obtain ⟨hch, hcs⟩ := List.ne_and_not_mem_of_not_mem_cons h
    simp [splitLines, Ne.symm hch, ih hcs]

theorem assembleText_of_line {cs : List Char} {l : AsmLine} (hnl : '\n' ∉ cs) (h : parseLine cs = some [l]) :
    assembleText cs = some (assemble [l]) := by
  simp [assembleText, splitLines_of_no_newline hnl, h]

/-- Text without a comment and without blanks at its end is all code. -/
theorem codePart_eq_self {cs : List Char} (hcomment : ';' ∉ cs) (hblank : cs.getLast? ≠ some ' ') : codePart cs = cs := by
  have htake : cs.takeWhile (· ≠ ';') = cs :=
    List.takeWhile_eq_self_iff.mpr fun ch hch => decide_eq_true fun he => hcomment (he ▸ hch)
  have hdrop : cs.reverse.dropWhile (· = ' ') = cs.reverse := by
    refine List.dropWhile_eq_self_iff.mpr fun hlen => ?_
    rw [← List.head?_reverse, List.head?_eq_getElem?, List.getElem?_eq_getElem hlen] at hblank
    simpa using hblank
  rw [codePart, htake, hdrop, List.reverse_reverse]

/-- The text of a mnemonic or of an operand: something, and no character that ends it (R104). -/
abbrev IsToken (cs : List Char) : Prop := cs ≠ [] ∧ ' ' ∉ cs ∧ ';' ∉ cs ∧ '\n' ∉ cs

/-! ### Mnemonics alone -/

theorem plainLines_isToken : ∀ p ∈ plainLines, IsToken p.1.toList := by decide

theorem parseLine_plainLine : ∀ p ∈ plainLines, parseLine p.1.toList = some [p.2] := by decide

theorem assembleText_plainLine {p : String × AsmLine} (h : p ∈ plainLines) :
    assembleText p.1.toList = some (assemble [p.2]) := by
  obtain ⟨-, -, -, hnl⟩ := plainLines_isToken p h
  exact assembleText_of_line hnl (parseLine_plainLine p h)

/-! ### Mnemonics with an operand -/

theorem find?_plainLines_of_blank {cs : List Char} (h : ' ' ∈ cs) :
    plainLines.find? (fun p => p.1.toList = cs) = none := by
  refine List.find?_eq_none.mpr fun p hp heq => ?_
  obtain ⟨-, hblank, -, -⟩ := plainLines_isToken p hp
  exact hblank (of_decide_eq_true heq ▸ h)

section
variable {mnemonic operand : List Char} (hm : IsToken mnemonic) (ho : IsToken operand)
include hm ho

theorem codePart_operand : codePart (mnemonic ++ ' ' :: operand) = mnemonic ++ ' ' :: operand := by
  obtain ⟨-, -, hmc, -⟩ := hm
  obtain ⟨hne, hblank, hoc, -⟩ := ho
  apply codePart_eq_self
  · simp [hmc, hoc]
  · intro h
    rw [List.getLast?_append_cons, List.getLast?_cons_of_ne_nil hne] at h
    exact hblank (List.mem_of_getLast? h)

theorem parseLine_operand : parseLine (mnemonic ++ ' ' :: operand) = (operandLine mnemonic operand).map ([·]) := by
  have htake : (mnemonic ++ ' ' :: operand).takeWhile (· ≠ ' ') = mnemonic := by
    obtain ⟨-, hblank, -, -⟩ := hm
    have hpos : ∀ ch ∈ mnemonic, decide (ch ≠ ' ') = true := fun ch hch => decide_eq_true fun he => hblank (he ▸ hch)
    rw [List.takeWhile_append_of_pos hpos]
    simp
  have hfind : plainLines.find? (fun p => p.1.toList = mnemonic ++ ' ' :: operand) = none :=
    find?_plainLines_of_blank (by simp)
  have hdrop : (mnemonic ++ ' ' :: operand).drop (mnemonic.length + 1) = operand := by simp
  unfold parseLine
  rw [codePart_operand hm ho]
  split
  · next hnil => exact absurd hnil (by simp)
  · simp only [hfind, htake, hdrop]

theorem assembleText_operand {l : AsmLine} (h : operandLine mnemonic operand = some l) :
    assembleText (mnemonic ++ ' ' :: operand) = some (assemble [l]) := by
  refine assembleText_of_line ?_ ?_
  · obtain ⟨-, -, -, hmn⟩ := hm
    obtain ⟨-, -, -, hon⟩ := ho
    simp [hmn, hon]
  · rw [parseLine_operand hm ho, h, Option.map_some]

end

/-! ### Digit operands -/

theorem digitText_isToken (d : Digit) : IsToken (digitText d) := by
  revert d
  decide

theorem parseDecimal_digitText (d : Digit) : parseDecimal (digitText d) = some d.toNat := by
  revert d
  decide

theorem parseDigit_digitText (d : Digit) : parseDigit (digitText d) = some d := by
  have hd : d.toNat ≤ 15 := Nat.le_of_lt_succ d.isLt
  simp only [parseDigit, parseDecimal_digitText, hd, if_true, BitVec.ofNat_toNat, BitVec.setWidth_eq]

/-- The form in which the texts of lines are written: the blank belongs to the mnemonic's text. -/
theorem assembleText_digitText {text mnemonic : List Char} (htext : text = mnemonic ++ [' ']) (hm : IsToken mnemonic)
    {d : Digit} {l : AsmLine} (h : operandLine mnemonic (digitText d) = some l) :
    assembleText (text ++ digitText d) = some (assemble [l]) := by
  rw [htext, List.append_assoc, List.singleton_append]
  exact assembleText_operand hm (digitText_isToken d) h

theorem operandLine_romGpio (d : Digit) : operandLine "ROM_GPIO".toList (digitText d) = some (.op (.romGpio d)) := by
  simp [operandLine, parseDigit_digitText]

theorem operandLine_romSr (d : Digit) : operandLine "ROM_SR".toList (digitText d) = some (.op (.romSr d)) := by
  simp [operandLine, parseDigit_digitText]

theorem operandLine_presentDirect (d : Digit) :
    operandLine "PRESENT_DIRECT".toList (digitText d) = some (.op (.presentDirect d)) := by
  simp [operandLine, parseDigit_digitText]

theorem operandLine_ticks (d : Digit) : operandLine "TICKS".toList (digitText d) = some (.ticks d.toNat) := by
  simp [operandLine, parseDecimal_digitText]

/-! ### Every operation and every pseudo-instruction -/

/-- Settles O4: a line is a mnemonic of the table alone, or one of the three mnemonics with a digit operand. -/
theorem eachOperationAssembles : Obligations.EachOperationAssembles := by
  unfold Obligations.EachOperationAssembles
  intro i
  cases i with
  | reset => exact assembleText_plainLine (p := ("RESET", .op .reset)) (by decide)
  | tick => exact assembleText_plainLine (p := ("TICK", .op .tick)) (by decide)
  | edgeInc => exact assembleText_plainLine (p := ("EDGE_INC", .op .edgeInc)) (by decide)
  | edgeDec => exact assembleText_plainLine (p := ("EDGE_DEC", .op .edgeDec)) (by decide)
  | isrInc => exact assembleText_plainLine (p := ("ISR_INC", .op .isrInc)) (by decide)
  | isrDec => exact assembleText_plainLine (p := ("ISR_DEC", .op .isrDec)) (by decide)
  | romGpio d => exact assembleText_digitText (by decide) (by decide) (operandLine_romGpio d)
  | romSr d => exact assembleText_digitText (by decide) (by decide) (operandLine_romSr d)
  | presentDirect d => exact assembleText_digitText (by decide) (by decide) (operandLine_presentDirect d)
  | srSample => exact assembleText_plainLine (p := ("SR_SAMPLE", .op .srSample)) (by decide)
  | srShift => exact assembleText_plainLine (p := ("SR_SHIFT", .op .srShift)) (by decide)
  | latchSet => exact assembleText_plainLine (p := ("LATCH_SET", .op .latchSet)) (by decide)
  | latchClear => exact assembleText_plainLine (p := ("LATCH_CLEAR", .op .latchClear)) (by decide)

theorem asmLine_cases (l : AsmLine) :
    (∃ i, l = .op i) ∨ (∃ n, l = .ticks n) ∨ l = .pressInc ∨ l = .pressDec ∨ l = .refresh := by
  cases l <;> simp

/-- Settles O5: the expansions' words, and the lines whose text gives them. -/
theorem pseudoInstructionsExpand : Obligations.PseudoInstructionsExpand := by
  unfold Obligations.PseudoInstructionsExpand
  refine ⟨asmLine_cases, assemble_op, assemble_ticks, by decide, by decide, by decide, assemble_append, ?_, ?_, ?_, ?_⟩
  · exact assembleText_plainLine (p := ("PRESS_INC", .pressInc)) (by decide)
  · exact assembleText_plainLine (p := ("PRESS_DEC", .pressDec)) (by decide)
  · exact assembleText_plainLine (p := ("REFRESH", .refresh)) (by decide)
  · exact fun d => assembleText_digitText (by decide) (by decide) (operandLine_ticks d)

end Sys2Proof.Machine
end

section
/-! PROOFS. The statements of 40_encoder: the two ROMs bit by bit and in number, the two stand-alone reads, `encode`, and that
no operation the block issues reads outside the ROMs or out of order. -/

namespace Sys2Proof.Machine

/-! ### The number of lit segments -/

theorem fontAt_nodup {c : Config} (hc : c.WellFormed) (d : Digit) : (c.fontAt d).Nodup := by
  unfold Config.fontAt
  split
  · exact (hc.fontIsOfStrokes _ (by simp)).2
  · exact List.nodup_nil

/-- Listed once each, the bit positions of an OR of `1 << i` are its set bits. -/
theorem orOfBits_countP {w : Nat} {is : List Nat} (hnodup : is.Nodup) (hlt : ∀ i ∈ is, i < w) :
    (List.range w).countP (orOfBits w is).getLsbD = is.length := by
  rw [List.countP_eq_length_filter]
  refine ((List.perm_ext_iff_of_nodup (List.nodup_range.filter _) hnodup).mpr fun i => ?_).length_eq
  rw [List.mem_filter, List.mem_range, orOfBits_getLsbD, decide_eq_true_iff]
  exact ⟨fun ⟨_, _, hmem⟩ => hmem, fun hmem => ⟨hlt i hmem, hlt i hmem, hmem⟩⟩

theorem orOfBits_map_pos_countP {w : Nat} {m : SegMap w} (h : m.Injective) {l : List Segment} (hl : l.Nodup) :
    (List.range w).countP (orOfBits w (l.map m.pos)).getLsbD = l.length := by
  have hlt : ∀ i ∈ l.map m.pos, i < w := by
    intro i hi
    obtain ⟨sg, -, rfl⟩ := List.mem_map.mp hi
    exact m.pos_lt sg
  rw [orOfBits_countP (hl.map fun _ _ => SegMap.pos_injective h) hlt, List.length_map]

/-- Settles O37: in either ROM the bit of a segment is set where FONT lights it, and there are as many set bits as lit
segments. -/
theorem romsEncodeTheSameFont : Obligations.RomsEncodeTheSameFont := by
  unfold Obligations.RomsEncodeTheSameFont
  intro c d hc hd
  obtain ⟨hgpio, -, hsr, -⟩ := romEntriesFollowFont c d hc hd
  refine ⟨fun sg => (hgpio sg).trans (hsr sg).symm, ?_⟩
  rw [romGpioEntry, romSrEntry, orOfBits_map_pos_countP hc.pinsInjective (fontAt_nodup hc d),
    orOfBits_map_pos_countP hc.qbitsInjective (fontAt_nodup hc d)]

/-! ### The contents of the ROMs and their reads -/

/-- Settles O38: the entries are computed from the reference font and maps. -/
theorem referenceRomContents : Obligations.ReferenceRomContents := by
  unfold Obligations.ReferenceRomContents
  exact ⟨by decide, by decide⟩

/-- Settles O33: of the two results of a stand-alone read, the digit's range selects one. -/
theorem romGpioResult : Obligations.RomGpioResult := by
  unfold Obligations.RomGpioResult
  intro d
  refine ⟨decode_encode (.romGpio d), fun s hlive => ⟨fun hd => ?_, fun hd => ?_⟩⟩
  · exact execRomGpio_next.mpr ⟨hlive, .inl ⟨hd, rfl⟩⟩
  · exact execRomGpio_next.mpr ⟨hlive, .inr ⟨hd, (addFault_of_live hlive.1 _).symm⟩⟩

/-- The two spellings of the 16-bit image of a ROM_SR entry (R127). -/
theorem zeroExtend_eq_zero_append (v : SrWord) : v.zeroExtend 16 = 0#8 ++ v :=
  BitVec.setWidth_eq_append (by decide)

/-- Settles O34: the same two results of a stand-alone read, the entry seen in 16 bits; FONT never lights the point. -/
theorem romSrResult : Obligations.RomSrResult := by
  unfold Obligations.RomSrResult
  intro d
  refine ⟨decode_encode (.romSr d), fun s hlive => ⟨fun hd => ?_, fun hc _ => romSrEntry_getLsbD_dp hc d, fun hd => ?_⟩⟩
  · rw [← zeroExtend_eq_zero_append]
    exact execRomSr_next.mpr ⟨hlive, .inl ⟨hd, rfl⟩⟩
  · exact execRomSr_next.mpr ⟨hlive, .inr ⟨hd, (addFault_of_live hlive.1 _).symm⟩⟩

/-- Settles O39: a read at a digit in 0..9 answers the entry of the table it is given. -/
theorem encodeReadsTheVariantsRom : Obligations.EncodeReadsTheVariantsRom := by
  unfold Obligations.EncodeReadsTheVariantsRom
  intro c d hd
  refine ⟨romRead_ok hd, ?_⟩
  rw [← zeroExtend_eq_zero_append]
  exact romRead_ok (table := fun e => (romSrEntry c e).zeroExtend 16) hd

/-! ### Enabled operations -/

theorem mem_handlerOps {s : State} {i : Instr} : i ∈ handlerOps s ↔ ∃ b, s.pending b = true ∧ i = handlerOf b := by
  simp only [handlerOps, List.mem_map, List.mem_filter, @eq_comm _ i]
  refine exists_congr fun b => and_congr_left fun _ => and_iff_right ?_
  cases b <;> decide

theorem mem_mainTaskOps {s : State} {i : Instr} :
    i ∈ mainTaskOps s ↔ ∃ ser, s.out = .serial ser ∧ i = serializerNext ser := by
  unfold mainTaskOps
  cases s.out <;> simp

theorem mem_enabledOps {s : State} {i : Instr} :
    i ∈ enabledOps s ↔ s.Live ∧ (i ∈ environmentOps ∨ i ∈ handlerOps s ∨ i ∈ mainTaskOps s) := by
  unfold enabledOps
  split
  · next hlive => rw [List.mem_append, List.mem_append, or_assoc, and_iff_right hlive]
  · next hstopped => exact iff_of_false List.not_mem_nil fun ⟨hlive, _⟩ => hstopped hlive

/-- The operation completes: a next state in which no stop is recorded. -/
abbrev Completes (i : Instr) (s : State) : Prop := ∃ t, exec i s = .next t ∧ t.Live

section
variable {s : State} (hlive : s.Live)
include hlive

theorem environmentOp_completes {i : Instr} (hi : i ∈ environmentOps) : Completes i s := by
  simp only [environmentOps, List.mem_cons, List.not_mem_nil, or_false] at hi
  obtain rfl | rfl | rfl | rfl := hi
  · exact ⟨_, exec_edgeOf hlive .inc, setPending_live hlive .inc true⟩
  · exact ⟨_, exec_edgeOf hlive .dec, setPending_live hlive .dec true⟩
  · exact ⟨_, execTick_next.mpr ⟨hlive, rfl⟩, hlive⟩
  · exact ⟨_, execReset_next.mpr ⟨hlive, rfl⟩, hlive⟩

/-- In each phase the enabling condition of the phase's next operation holds; in SHIFT the count, at most 8, tells which. -/
theorem serializerNext_completes {ser : Serial} (ho : s.out = .serial ser) (hd : s.digit.toNat ≤ 9) :
    Completes (serializerNext ser) s := by
  unfold serializerNext
  split
  · next hidle => exact ⟨_, execSrSample_next.mpr ⟨hlive, .inl ⟨ser, ho, .inl ⟨hidle, .inl ⟨hd, rfl⟩⟩⟩⟩, hlive⟩
  · next hshift =>
    split
    · next hlt => exact ⟨_, serializerOp_next.mpr ⟨hlive, .inl ⟨ser, ho, canShift_iff.mpr ⟨hshift, hlt⟩, rfl⟩⟩, hlive⟩
    · have hfull : ser.count.val = 8 := by omega
      exact ⟨_, serializerOp_next.mpr ⟨hlive, .inl ⟨ser, ho, canLatch_iff.mpr ⟨hshift, hfull⟩, rfl⟩⟩, hlive⟩
  · next hhigh => exact ⟨_, serializerOp_next.mpr ⟨hlive, .inl ⟨ser, ho, decide_eq_true hhigh, rfl⟩⟩, hlive⟩

end

/-- Settles O9: an enabled operation has its flag or its phase, and with `digit` in 0..9 it reads inside the ROMs. -/
theorem enabledOperationsComplete : Obligations.EnabledOperationsComplete := by
  unfold Obligations.EnabledOperationsComplete
  intro s i hinv hi
  obtain ⟨hlive, henv | hhandler | hmain⟩ := mem_enabledOps.mp hi
  · exact environmentOp_completes hlive henv
  · obtain ⟨b, hpending, rfl⟩ := mem_handlerOps.mp hhandler
    obtain ⟨t, hexec, hlive', -⟩ := exec_handlerOf_clears hlive hpending hinv.digit
    exact ⟨t, hexec, hlive'⟩
  · obtain ⟨ser, ho, rfl⟩ := mem_mainTaskOps.mp hmain
    exact serializerNext_completes hlive ho hinv.digit

end Sys2Proof.Machine
end

section
/-! PROOFS. The statements of 41_debounce: the guard comparison, the clamp of the digit, and the spacing of accepted events. -/

namespace Sys2Proof.Machine

/-! ### The guard comparison -/

section
variable {s : State} {b : Button}

/-- In a state where the handler is enabled, the guard alone decides. -/
theorem acceptsNow_iff_accepts (hlive : s.Live) (hp : s.pending b = true) : s.acceptsNow b ↔ s.accepts b = true :=
  ⟨fun ⟨_, _, ha⟩ => ha, fun ha => ⟨hlive, hp, ha⟩⟩

theorem acceptsNow_iff (hlive : s.Live) (hp : s.pending b = true) :
    s.acceptsNow b ↔ 200 ≤ ((s.nowMs : Int) - s.last b) % 2 ^ s.cfg.tickWidth :=
  (acceptsNow_iff_accepts hlive hp).trans (accepts_iff s b)

theorem accepts_iff_sinceLast (s : State) (b : Button) : s.accepts b = true ↔ 200 ≤ s.sinceLast b :=
  decide_eq_true_iff

/-- The window is the elapsed time itself, brought into W_TICK bits (R146). -/
theorem sinceLast_of_elapsed {e : Nat} (h : s.nowMs = (s.last b + e) % 2 ^ s.cfg.tickWidth) :
    s.sinceLast b = e % 2 ^ s.cfg.tickWidth := by
  rw [State.sinceLast, h]
  exact tickSub_tickAdd s.cfg (s.last b) e

theorem acceptsNow_iff_of_elapsed (hlive : s.Live) (hp : s.pending b = true) {e : Nat}
    (h : s.nowMs = (s.last b + e) % 2 ^ s.cfg.tickWidth) : s.acceptsNow b ↔ 200 ≤ e % 2 ^ s.cfg.tickWidth := by
  rw [acceptsNow_iff_accepts hlive hp, accepts_iff_sinceLast, sinceLast_of_elapsed h]

end

/-! ### The three results of a handler -/

section
variable {s : State} {b : Button}

theorem exec_handlerOf_discarded (hlive : s.Live) (hp : s.pending b = true) (h : ¬ s.acceptsNow b) :
    exec (handlerOf b) s = .next (s.setPending b false) := by
  have ha : s.accepts b = false := Bool.eq_false_iff.mpr fun ha => h ⟨hlive, hp, ha⟩
  rw [exec_handlerOf]
  exact handler_next.mpr ⟨hlive, .inr (.inl ⟨hp, ha, rfl⟩)⟩

/-- The handler not enabled, discarding, and accepting in either variant (R141, R147). -/
theorem exec_handlerOf_results (b : Button) (hlive : s.Live) :
    (s.pending b = false →
      exec (handlerOf b) s = .next { s with fault := [.seqHandler (encode (handlerOf b)) false] }) ∧
    (s.pending b = true → ((s.nowMs : Int) - s.last b) % 2 ^ s.cfg.tickWidth < 200 →
      exec (handlerOf b) s = .next (s.setPending b false)) ∧
    (s.pending b = true → 200 ≤ ((s.nowMs : Int) - s.last b) % 2 ^ s.cfg.tickWidth → s.digit.toNat ≤ 9 →
      (∀ seg, s.out = .direct seg → exec (handlerOf b) s = .next
        ((s.accepted b).setOut (.direct (driveLines s.cfg seg (romGpioEntry s.cfg (stepDigit b s.digit)))))) ∧
      (∀ ser, s.out = .serial ser → exec (handlerOf b) s = .next (s.accepted b))) := by
  refine ⟨exec_handlerOf_not_pending hlive, fun hp hlt => ?_, fun hp hge hd => ?_⟩
  · exact exec_handlerOf_discarded hlive hp ((acceptsNow_iff hlive hp).not.mpr hlt.not_ge)
  · rw [exec_handlerOf_accepted ((acceptsNow_iff hlive hp).mpr hge) hd]
    exact ⟨fun seg ho => congrArg Host.Outcome.next (afterAccept_of_direct ho),
      fun ser ho => congrArg Host.Outcome.next (afterAccept_of_serial (variant_of_serial ho))⟩

theorem afterAccept_live (h : s.Live) : (s.afterAccept b).Live := by
  obtain ⟨o, ho⟩ := afterAccept_eq_setOut s b
  simpa [ho, State.Live] using h

theorem exec_handlerOf_accepted_completes (ha : s.acceptsNow b) (hd : s.digit.toNat ≤ 9) :
    ∃ t, exec (handlerOf b) s = .next t ∧ t.Live ∧ t.last b = s.nowMs ∧ t.digit = stepDigit b s.digit :=
  ⟨_, exec_handlerOf_accepted ha hd, afterAccept_live ha.1, afterAccept_last_self s b, afterAccept_digit s b⟩

end

/-- Settles O23: ISR_INC is the increment button's handler, whose three results are the three cases. -/
theorem isrIncResult : Obligations.IsrIncResult := by
  unfold Obligations.IsrIncResult
  refine ⟨decode_encode_handlerOf .inc, fun s hlive => ?_⟩
  obtain ⟨hidle, hdiscarded, haccepted⟩ := exec_handlerOf_results .inc hlive
  refine ⟨hidle, hdiscarded, fun hp hge hd d' hd' => ?_⟩
  subst hd'
  exact haccepted hp hge hd

/-- Settles O24: ISR_DEC is the decrement button's handler, whose three results are the three cases. -/
theorem isrDecResult : Obligations.IsrDecResult := by
  unfold Obligations.IsrDecResult
  refine ⟨decode_encode_handlerOf .dec, fun s hlive => ?_⟩
  obtain ⟨hidle, hdiscarded, haccepted⟩ := exec_handlerOf_results .dec hlive
  refine ⟨hidle, hdiscarded, fun hp hge hd d' hd' => ?_⟩
  subst hd'
  exact haccepted hp hge hd

/-- Settles O26: the guard decides between the accepted and the discarded result, and 200 is on the accepted side. -/
theorem guardBoundaryIsInclusive : Obligations.GuardBoundaryIsInclusive := by
  unfold Obligations.GuardBoundaryIsInclusive
  intro b s hlive hp hd
  refine ⟨fun hge => exec_handlerOf_accepted_completes ((acceptsNow_iff hlive hp).mpr hge) hd, fun hlt => ?_,
    fun hwide => ⟨fun hnow => ?_, fun hnow => ?_⟩⟩
  · exact ⟨_, exec_handlerOf_discarded hlive hp ((acceptsNow_iff hlive hp).not.mpr hlt.not_ge),
      setPending_live hlive b false, s.setPending_last b b false, s.setPending_digit b false, s.setPending_out b false⟩
  · rw [acceptsNow_iff_of_elapsed hlive hp hnow, Nat.mod_eq_of_lt hwide]
  · rw [acceptsNow_iff_of_elapsed hlive hp hnow, Nat.mod_eq_of_lt (by omega)]
    decide

/-- Settles O59: the guard sees the elapsed time modulo 2^W_TICK; 0x64 is 200 ms after 0xFFFFFF9C. -/
theorem guardMeasuresElapsedModulo : Obligations.GuardMeasuresElapsedModulo := by
  unfold Obligations.GuardMeasuresElapsedModulo
  refine ⟨fun b s e hlive hp hd hnow => ?_, fun b s hlive hp hw => ⟨fun hlast hnow => ?_, fun hnow => ?_⟩⟩
  · have hiff := acceptsNow_iff_of_elapsed hlive hp hnow
    exact ⟨fun hge => exec_handlerOf_accepted_completes (hiff.mpr hge) hd,
      fun hlt => exec_handlerOf_discarded hlive hp (hiff.not.mpr hlt.not_ge)⟩
  · have helapsed : s.nowMs = (s.last b + 200) % 2 ^ s.cfg.tickWidth := by
      rw [hnow, hlast, hw]
      rfl
    rw [acceptsNow_iff_of_elapsed hlive hp helapsed, hw]
    decide
  · rw [← hw] at hnow
    rw [acceptsNow_iff_of_elapsed hlive hp hnow, hw]
    decide

/-! ### The clamp of the digit -/

theorem stepDigit_inc_toNat (d : Digit) : (stepDigit .inc d).toNat = if d.toNat < 9 then d.toNat + 1 else d.toNat := by
  simp only [stepDigit]
  split
  · exact BitVec.toNat_add_of_lt (by simp; omega)
  · rfl

theorem stepDigit_dec_toNat (d : Digit) : (stepDigit .dec d).toNat = d.toNat - 1 := by
  simp only [stepDigit]
  split
  · exact BitVec.toNat_sub_of_le (by simpa [BitVec.le_def])
  · omega

/-- An event steps the digit by one toward its end of the range, or keeps it there (R151). -/
theorem stepDigit_cases (b : Button) (d : Digit) :
    stepDigit b d = d ∨
    (b = .inc ∧ d.toNat < 9 ∧ (stepDigit b d).toNat = d.toNat + 1) ∨
    (b = .dec ∧ 0 < d.toNat ∧ (stepDigit b d).toNat + 1 = d.toNat) := by
  cases b with
  | inc =>
    by_cases h : d.toNat < 9
    · exact .inr (.inl ⟨rfl, h, by rw [stepDigit_inc_toNat, if_pos h]⟩)
    · exact .inl (if_neg h)
  | dec =>
    by_cases h : 0 < d.toNat
    · exact .inr (.inr ⟨rfl, h, by rw [stepDigit_dec_toNat]; omega⟩)
    · exact .inl (if_neg h)

/-- Settles O28: only an event's step and RESET write the digit. -/
theorem digitClampsAndNeverWraps : Obligations.DigitClampsAndNeverWraps := by
  unfold Obligations.DigitClampsAndNeverWraps
  intro i s t h
  have he := (effect_of_exec h).2
  refine ⟨?_, effect_keeps_digit_le he⟩
  obtain hkept | ⟨b, rfl, hstep⟩ | hreset := effect_digit he
  · exact .inl hkept
  · rw [hstep]
    obtain hclamp | ⟨rfl, hup⟩ | ⟨rfl, hdown⟩ := stepDigit_cases b s.digit
    · exact .inl hclamp
    · exact .inr (.inl ⟨rfl, hup⟩)
    · exact .inr (.inr (.inl ⟨rfl, hdown⟩))
  · exact .inr (.inr (.inr hreset))

/-- Settles O29: an accepted event completes with the stepped digit. -/
theorem acceptedEventMovesDigitByOne : Obligations.AcceptedEventMovesDigitByOne := by
  unfold Obligations.AcceptedEventMovesDigitByOne
  intro s hd
  refine ⟨fun ha => ?_, fun ha => ?_⟩
  · obtain ⟨t, hexec, hlive, -, hdigit⟩ := exec_handlerOf_accepted_completes ha hd
    refine ⟨t, hexec, hlive, ?_⟩
    rw [hdigit, stepDigit_inc_toNat]
    split <;> omega
  · obtain ⟨t, hexec, hlive, -, hdigit⟩ := exec_handlerOf_accepted_completes ha hd
    exact ⟨t, hexec, hlive, hdigit ▸ stepDigit_dec_toNat s.digit⟩

/-- Lines that already show the entry are left as they were by writing it again (R142). -/
theorem driveLines_eq_self {c : Config} {seg m : PortWord} (h : seg &&& segLineMask c = m) : driveLines c seg m = seg := by
  subst h
  refine BitVec.eq_of_getLsbD_eq fun i hi => ?_
  simp only [driveLines, BitVec.getLsbD_or, BitVec.getLsbD_and, BitVec.getLsbD_not, hi, decide_true, Bool.true_and]
  cases seg.getLsbD i <;> cases (segLineMask c).getLsbD i <;> rfl

theorem exec_handlerOf_clamped {s : State} {b : Button} {d : Digit} (ha : s.acceptsNow b) (hdigit : s.digit = d)
    (hd : d.toNat ≤ 9) (hclamp : stepDigit b d = d) :
    ∃ t, exec (handlerOf b) s = .next t ∧ t.digit = d ∧ t.last b = s.nowMs ∧
      ∀ seg, s.out = .direct seg → t.out = .direct (driveLines s.cfg seg (romGpioEntry s.cfg d)) ∧
        (seg &&& segLineMask s.cfg = romGpioEntry s.cfg d → t.out = s.out) := by
  subst hdigit
  refine ⟨_, exec_handlerOf_accepted ha hd, (afterAccept_digit s b).trans hclamp, afterAccept_last_self s b,
    fun seg ho => ?_⟩
  have hout : (s.afterAccept b).out = .direct (driveLines s.cfg seg (romGpioEntry s.cfg s.digit)) := by
    rw [afterAccept_of_direct ho, State.setOut_out, hclamp]
  refine ⟨hout, fun hshown => ?_⟩
  rw [hout, driveLines_eq_self hshown, ho]

/-- Settles O25: 9 and 0 are the digits their events keep. -/
theorem clampedEventIsRecorded : Obligations.ClampedEventIsRecorded := by
  unfold Obligations.ClampedEventIsRecorded
  exact fun s => ⟨fun ha hdigit => exec_handlerOf_clamped ha hdigit (by decide) rfl,
    fun ha hdigit => exec_handlerOf_clamped ha hdigit (by decide) rfl⟩

/-! ### The time since the last accepted event, along a run -/

theorem tickSub_self (c : Config) (a : Nat) : tickSub c a a = 0 := by
  simp [tickSub]

theorem tickSub_tickAdd_one (c : Config) (a b : Nat) :
    tickSub c (tickAdd c a 1) b = (tickSub c a b + 1) % 2 ^ c.tickWidth := by
  zify
  rw [tickSub_cast, tickSub_cast, tickAdd, Int.natCast_mod, tickModulus, Nat.cast_add, Nat.cast_one, Nat.cast_pow,
    Nat.cast_ofNat, Int.emod_sub_emod, Int.emod_add_emod, add_sub_right_comm]

theorem handlerOf_ne_tick (b : Button) : handlerOf b ≠ .tick := by
  cases b <;> decide

section
variable {s : State} {b : Button}

theorem sinceLast_of_last_eq_nowMs (h : s.last b = s.nowMs) : s.sinceLast b = 0 := by
  rw [State.sinceLast, h, tickSub_self]

theorem afterReset_sinceLast (s : State) (b : Button) : s.afterReset.sinceLast b = 0 :=
  sinceLast_of_last_eq_nowMs (by cases b <;> rfl)

theorem afterAccept_nowMs (s : State) (b : Button) : (s.afterAccept b).nowMs = s.nowMs := by
  obtain ⟨o, h⟩ := afterAccept_eq_setOut s b
  simp [h]

theorem afterAccept_cfg (s : State) (b : Button) : (s.afterAccept b).cfg = s.cfg := by
  obtain ⟨o, h⟩ := afterAccept_eq_setOut s b
  simp [h]

theorem afterAccept_sinceLast_self (s : State) (b : Button) : (s.afterAccept b).sinceLast b = 0 :=
  sinceLast_of_last_eq_nowMs ((afterAccept_last_self s b).trans (afterAccept_nowMs s b).symm)

end

section
variable {i : Instr} {is : List Instr} {s t : State}

/-- TICK alone adds to the time since the last accepted event; an accepted event and RESET start it again. -/
theorem exec_sinceLast_le (h : exec i s = .next t) (b : Button) :
    t.sinceLast b ≤ s.sinceLast b + if i = .tick then 1 else 0 := by
  have he := (effect_of_exec h).2
  by_cases hreset : i = .reset
  · subst hreset
    obtain ⟨-, rfl⟩ := execReset_next.mp h
    exact (afterReset_sinceLast s b).trans_le (Nat.zero_le _)
  have hnow := exec_nowMs h hreset
  obtain hlast | ⟨rfl, hlast⟩ | ⟨hi, -⟩ := effect_last he b
  · rw [State.sinceLast, State.sinceLast, hlast, hnow, effect_keeps_cfg he]
    split
    · exact (tickSub_tickAdd_one _ _ _).trans_le (Nat.mod_le _ _)
    · exact le_rfl
  · rw [if_neg (handlerOf_ne_tick b)] at hnow
    exact (sinceLast_of_last_eq_nowMs (hlast.trans hnow.symm)).trans_le (Nat.zero_le _)
  · exact absurd hi hreset

theorem runOps_sinceLast_le (h : runOps is s = .next t) (b : Button) :
    t.sinceLast b ≤ s.sinceLast b + is.count .tick := by
  induction is generalizing s with
  | nil =>
    cases h
    exact le_rfl
  | cons i is ih =>
    obtain ⟨u, hexec, hrun⟩ := runOps_cons_next_iff.mp h
    calc t.sinceLast b ≤ u.sinceLast b + is.count .tick := ih hrun
      _ ≤ s.sinceLast b + (if i = .tick then 1 else 0) + is.count .tick :=
        Nat.add_le_add_right (exec_sinceLast_le hexec b) _
      _ = s.sinceLast b + (i :: is).count .tick := by
        simp only [List.count_cons, beq_iff_eq]
        omega

/-- The counter advances by the TICKs of the run, from a counter of any value. -/
theorem runOps_nowMs_modEq (h : runOps is s = .next t) (hreset : .reset ∉ is) :
    t.nowMs ≡ s.nowMs + is.count .tick [MOD 2 ^ s.cfg.tickWidth] := by
  induction is generalizing s with
  | nil =>
    cases h
    exact Nat.ModEq.refl _
  | cons i is ih =>
    obtain ⟨u, hexec, hrun⟩ := runOps_cons_next_iff.mp h
    rw [List.mem_cons, not_or] at hreset
    obtain ⟨hi, his⟩ := hreset
    have hu := ih hrun his
    rw [effect_keeps_cfg (effect_of_exec hexec).2, exec_nowMs hexec (Ne.symm hi)] at hu
    refine hu.trans ?_
    by_cases htick : i = .tick
    · rw [if_pos htick, htick, List.count_cons_self, Nat.add_comm _ 1, ← Nat.add_assoc]
      exact (Nat.mod_modEq _ _).add_right _
    · rw [if_neg htick, List.count_cons_of_ne htick]

theorem live_of_runOps_next (h : runOps is s = .next t) (ht : t.Live) : s.Live := by
  cases is with
  | nil =>
    cases h
    exact ht
  | cons i is =>
    obtain ⟨u, hexec, -⟩ := runOps_cons_next_iff.mp h
    exact live_of_exec_next hexec

/-- An accepted event that ends in a live state raised no fault, so it is the whole of its writes. -/
theorem afterAccept_of_exec_live {b : Button} (ha : s.acceptsNow b) (h : exec (handlerOf b) s = .next t) (ht : t.Live) :
    t = s.afterAccept b := by
  obtain ⟨⟨hfault, -⟩, hp, hacc⟩ := ha
  rw [exec_handlerOf, handler_next] at h
  simp only [hp, hacc, Bool.true_eq_false, false_and, true_and, false_or, acceptEvent_next] at h
  obtain ⟨-, ⟨hv, rfl⟩ | ⟨seg, ho, -, rfl⟩ | ⟨-, -, rfl⟩⟩ := h
  · exact (afterAccept_of_serial hv).symm
  · exact (afterAccept_of_direct ho).symm
  · simp [State.Live, hfault] at ht

/-- In a run too short for the guard of either button, no operation changes the digit but RESET. -/
theorem runOps_digit_of_guarded (h : runOps is s = .next t) (hguard : ∀ b, s.sinceLast b + is.count .tick < 200)
    (hzero : s.digit = 0#4) : t.digit = 0#4 := by
  induction is generalizing s with
  | nil =>
    cases h
    exact hzero
  | cons i is ih =>
    obtain ⟨u, hexec, hrun⟩ := runOps_cons_next_iff.mp h
    refine ih hrun (fun b => ?_) ?_
    · have hle := exec_sinceLast_le hexec b
      have hlt := hguard b
      simp only [List.count_cons, beq_iff_eq] at hlt
      omega
    · obtain hkept | ⟨b, rfl, hstep⟩ | ⟨-, hreset⟩ := effect_digit (effect_of_exec hexec).2
      · exact hkept.trans hzero
      · by_contra hne
        obtain ⟨b', -, ha, -⟩ := afterAccept_of_digit_ne hexec (handlerOf_ne_reset b) (hzero ▸ hne)
        have hge := (accepts_iff_sinceLast s b').mp ha.2.2
        have hlt := hguard b'
        omega
      · exact hreset

end

/-- Settles O31: RESET starts both windows, and 199 TICKs do not fill them. -/
theorem noEventInFirst199Ms : Obligations.NoEventInFirst199Ms := by
  unfold Obligations.NoEventInFirst199Ms
  intro s s1 t is hreset hrun hticks
  obtain ⟨-, rfl⟩ := execReset_next.mp hreset
  refine ⟨fun b ⟨_, _, ha⟩ => ?_, runOps_digit_of_guarded hrun (fun b => ?_) s.afterReset_digit⟩
  · have hge := (accepts_iff_sinceLast t b).mp ha
    have hle := runOps_sinceLast_le hrun b
    rw [afterReset_sinceLast] at hle
    omega
  · rw [afterReset_sinceLast]
    omega

/-! ### The spacing of accepted events -/

/-- 200 ms after RESET with both buttons pressed. -/
def bothPending : State := { State.reset with nowMs := 200, pendInc := true, pendDec := true }

theorem bothPending_acceptsNow (b : Button) : bothPending.acceptsNow b := by
  cases b <;> decide

theorem afterAccept_acceptsNow_of_ne {s : State} {b c : Button} (hne : c ≠ b) :
    (s.afterAccept b).acceptsNow c ↔ s.acceptsNow c := by
  obtain ⟨o, h⟩ := afterAccept_eq_setOut s b
  simp [h, State.acceptsNow, State.Live, accepts_iff, accepted_pending_of_ne s hne, accepted_last_of_ne s hne]

/-- Settles O30: an accepted event starts its button's window again, and the window then counts at most the TICKs taken. The two
buttons' windows are their own: both events of `bothPending` are accepted, one right after the other. -/
theorem acceptedEventsAreSpaced : Obligations.AcceptedEventsAreSpaced := by
  unfold Obligations.AcceptedEventsAreSpaced
  refine ⟨fun b s s1 s2 is ha hexec hrun hreset hticks ha2 => ?_, bothPending, bothPending.afterAccept .inc, ?_, ?_, ?_⟩
  · obtain ⟨hlive, -, hacc⟩ := ha2
    obtain rfl := afterAccept_of_exec_live ha hexec (live_of_runOps_next hrun hlive)
    have hge := (accepts_iff_sinceLast s2 b).mp hacc
    have hle := runOps_sinceLast_le hrun b
    have hnow := runOps_nowMs_modEq hrun hreset
    rw [afterAccept_sinceLast_self] at hle
    rw [afterAccept_nowMs, afterAccept_cfg] at hnow
    have helapsed : ((s2.nowMs : Int) - s.nowMs) % 2 ^ s.cfg.tickWidth = is.count .tick := by
      have hmod := (Int.natCast_modEq_iff.mpr hnow).sub_right (s.nowMs : Int)
      rw [Nat.cast_add, add_sub_cancel_left, Nat.cast_pow, Nat.cast_ofNat] at hmod
      exact hmod.eq.trans (Int.emod_eq_of_lt (Int.natCast_nonneg _) (by exact_mod_cast hticks))
    omega
  · exact bothPending_acceptsNow .inc
  · exact exec_handlerOf_accepted (bothPending_acceptsNow .inc) (Nat.zero_le _)
  · exact (afterAccept_acceptsNow_of_ne (by decide)).mpr (bothPending_acceptsNow .dec)

end Sys2Proof.Machine
end

section
/-! PROOFS. The statements of 42_output_driver: the operations of the two drivers, the eight shifts, and the refresh, alone
and with other agents between its steps. -/

namespace Sys2Proof.Machine

/-! ### The results of one operation -/

/-- Settles O40: the variant is checked first, then the digit's range. -/
theorem presentDirectResult : Obligations.PresentDirectResult := by
  unfold Obligations.PresentDirectResult
  intro d
  refine ⟨decode_encode (.presentDirect d), fun s hlive => ⟨fun seg ho hd => ?_, fun seg ho hd => ?_, fun ser ho => ?_⟩⟩
  · exact exec_presentDirect_of_direct hlive ho hd
  · exact execPresentDirect_next.mpr ⟨hlive, .inl ⟨seg, ho, .inr ⟨hd, (addFault_of_live hlive.1 _).symm⟩⟩⟩
  · exact execPresentDirect_next.mpr ⟨hlive, .inr ⟨variant_of_serial ho, (addFault_of_live hlive.1 _).symm⟩⟩

section
variable {s t : State} {ser : Serial} {w : Word} {p : Serial → Bool} {f : Serial → Serial}

theorem serializerOp_of_enabled (hlive : s.Live) (ho : s.out = .serial ser) (hp : p ser = true) :
    serializerOp w s p f = .next (s.setOut (.serial (f ser))) :=
  serializerOp_next.mpr ⟨hlive, .inl ⟨ser, ho, hp, rfl⟩⟩

theorem serializerOp_of_disabled (hlive : s.Live) (ho : s.out = .serial ser) (hp : p ser = false) :
    serializerOp w s p f = .next { s with fault := [.seqSerializer w ser.phase ser.count] } :=
  serializerOp_next.mpr ⟨hlive, .inr (.inl ⟨ser, ho, hp, (addFault_of_live hlive.1 _).symm⟩)⟩

theorem addFault_not_live (s : State) (r : FaultRecord) : ¬ (s.addFault r).Live := by
  rintro ⟨hfault, -⟩
  rw [State.addFault_fault, insertRecord] at hfault
  split at hfault
  · next hmem => simp [hfault] at hmem
  · simp at hfault

/-- A serializer operation that ends in a live state was enabled and had its effect. -/
theorem enabled_of_serializerOp_live (h : serializerOp w s p f = .next t) (ht : t.Live) :
    ∃ ser, s.out = .serial ser ∧ p ser = true ∧ t = s.setOut (.serial (f ser)) := by
  obtain ⟨-, henabled | ⟨ser, -, -, rfl⟩ | ⟨-, rfl⟩⟩ := serializerOp_next.mp h
  · exact henabled
  · exact absurd ht (addFault_not_live _ _)
  · exact absurd ht (addFault_not_live _ _)

/-- The operations of the main task are those of variant SERIAL (R187, R223). -/
theorem exec_mainTaskOp_of_direct {i : Instr} {seg : PortWord} (hi : isMainTaskOp i = true) (hlive : s.Live)
    (ho : s.out = .direct seg) : exec i s = .next { s with fault := [.variant (encode i)] } := by
  rw [← addFault_of_live hlive.1]
  have hv := variant_of_direct ho
  cases i with
  | srSample => exact execSrSample_next.mpr ⟨hlive, .inr ⟨hv, rfl⟩⟩
  | srShift | latchSet | latchClear => exact serializerOp_next.mpr ⟨hlive, .inr (.inr ⟨hv, rfl⟩)⟩
  | reset | tick | edgeInc | edgeDec | isrInc | isrDec | romGpio | romSr | presentDirect => cases hi

theorem exec_srSample_of_idle (hlive : s.Live) (ho : s.out = .serial ser) (hidle : ser.phase = .idle)
    (hd : s.digit.toNat ≤ 9) : exec .srSample s = .next (s.setOut (.serial (ser.sample (romSrEntry s.cfg s.digit)))) :=
  execSrSample_next.mpr ⟨hlive, .inl ⟨ser, ho, .inl ⟨hidle, .inl ⟨hd, rfl⟩⟩⟩⟩

/-- In phase SHIFT with a byte, SR_SHIFT sends the byte's bit 7 - k into the shift stage (R177). -/
theorem exec_srShift_of_byte {b : SrWord} (hlive : s.Live) (ho : s.out = .serial ser) (hphase : ser.phase = .shift)
    (hcount : ser.count.val < 8) (hbyte : ser.byte = some b) :
    exec .srShift s = .next (s.setOut (.serial
      { ser with shiftStage := shiftIn ser.shiftStage (b.getLsbD (7 - ser.count.val)), count := ser.count + 1 })) := by
  rw [← linkBit_of_byte hbyte s.draws]
  exact serializerOp_of_enabled hlive ho (canShift_iff.mpr ⟨hphase, hcount⟩)

theorem exec_latchSet_of_full (hlive : s.Live) (ho : s.out = .serial ser) (hphase : ser.phase = .shift)
    (hcount : ser.count.val = 8) : exec .latchSet s = .next (s.setOut (.serial ser.latched)) :=
  serializerOp_of_enabled hlive ho (canLatch_iff.mpr ⟨hphase, hcount⟩)

theorem exec_latchClear_of_high (hlive : s.Live) (ho : s.out = .serial ser) (hhigh : ser.phase = .latchHigh) :
    exec .latchClear s = .next (s.setOut (.serial ser.cleared)) :=
  serializerOp_of_enabled hlive ho (decide_eq_true hhigh)

end

/-- Settles O44: in SERIAL the phase decides whether the digit's entry is loaded. -/
theorem srSampleResult : Obligations.SrSampleResult := by
  unfold Obligations.SrSampleResult
  refine ⟨decode_encode .srSample, fun s hlive => ⟨fun ser ho hidle hd => ?_, fun ser ho hbusy => ?_, fun seg ho => ?_⟩⟩
  · exact exec_srSample_of_idle hlive ho hidle hd
  · exact execSrSample_next.mpr ⟨hlive, .inl ⟨ser, ho, .inr ⟨hbusy, (addFault_of_live hlive.1 _).symm⟩⟩⟩
  · exact exec_mainTaskOp_of_direct rfl hlive ho

theorem shiftIn_eq (v : SrWord) (b : Bool) : shiftIn v b = (v <<< 1) ||| (if b then 1#8 else 0#8) := by
  cases b <;> rfl

/-- Settles O45: the bit on the link enters the shift stage while fewer than eight were sent. -/
theorem srShiftResult : Obligations.SrShiftResult := by
  unfold Obligations.SrShiftResult
  refine ⟨decode_encode .srShift, fun s hlive =>
    ⟨fun ser b ho hphase hcount hbyte v hv => ?_, fun ser ho hdisabled => ?_, fun seg ho => ?_⟩⟩
  · rw [hv, ← shiftIn_eq]
    exact exec_srShift_of_byte hlive ho hphase hcount hbyte
  · exact serializerOp_of_disabled hlive ho (decide_eq_false hdisabled)
  · exact exec_mainTaskOp_of_direct rfl hlive ho

/-- Settles O47: the rising edge commits once all eight bits were sent. -/
theorem latchSetResult : Obligations.LatchSetResult := by
  unfold Obligations.LatchSetResult
  refine ⟨decode_encode .latchSet, fun s hlive =>
    ⟨fun ser ho hphase hcount => ?_, fun ser ho hdisabled => ?_, fun seg ho => ?_⟩⟩
  · exact exec_latchSet_of_full hlive ho hphase hcount
  · exact serializerOp_of_disabled hlive ho (decide_eq_false hdisabled)
  · exact exec_mainTaskOp_of_direct rfl hlive ho

/-- Settles O48: only a latch line that is high is lowered. -/
theorem latchClearResult : Obligations.LatchClearResult := by
  unfold Obligations.LatchClearResult
  refine ⟨decode_encode .latchClear, fun s hlive =>
    ⟨fun ser ho hhigh => ?_, fun ser ho hdisabled => ?_, fun seg ho => ?_⟩⟩
  · exact exec_latchClear_of_high hlive ho hhigh
  · exact serializerOp_of_disabled hlive ho (decide_eq_false hdisabled)
  · exact exec_mainTaskOp_of_direct rfl hlive ho

/-! ### The shifts of a refresh (R178) -/

/-- The shift stage `v` after the top `k` bits of the byte `b` were sent: those bits at the bottom, under the bits of `v`
that are not yet lost. -/
def afterShifts (v b : SrWord) (k : Nat) : SrWord := (v <<< k) ||| (b >>> (8 - k))

theorem afterShifts_zero (v b : SrWord) : afterShifts v b 0 = v := by
  simp [afterShifts, BitVec.ushiftRight_eq_zero]

theorem afterShifts_eight (v b : SrWord) : afterShifts v b 8 = b := by
  simp [afterShifts]

theorem afterShifts_getLsbD (v b : SrWord) {k j : Nat} (h : j < k) :
    (afterShifts v b k).getLsbD j = b.getLsbD (8 - k + j) := by
  simp [afterShifts, h]

theorem shiftIn_afterShifts (v b : SrWord) {k : Nat} (hk : k < 8) :
    shiftIn (afterShifts v b k) (b.getLsbD (7 - k)) = afterShifts v b (k + 1) := by
  refine BitVec.eq_of_getLsbD_eq fun i hi => ?_
  cases i with
  | zero => rw [shiftIn_getLsbD_zero, afterShifts_getLsbD v b (Nat.succ_pos k), Nat.add_zero, Nat.add_sub_add_right 7 1]
  | succ i =>
    rw [shiftIn_getLsbD_succ _ _ hi]
    have hup : 7 - k + (i + 1) = 8 - k + i := by omega
    simp [afterShifts, hup, hi, Nat.lt_of_succ_lt hi]

theorem runOps_srShift {s : State} {ser : Serial} {b : SrWord} (hlive : s.Live) (ho : s.out = .serial ser)
    (hphase : ser.phase = .shift) (hcount : ser.count = 0) (hbyte : ser.byte = some b) (k : Fin 9) :
    runOps (List.replicate k.val .srShift) s =
      .next (s.setOut (.serial { ser with shiftStage := afterShifts ser.shiftStage b k.val, count := k })) := by
  induction k using Fin.induction with
  | zero =>
    rw [Fin.val_zero, afterShifts_zero, ← hcount, State.setOut, ← ho]
    rfl
  | succ k ih =>
    rw [Fin.val_castSucc] at ih
    rw [Fin.val_succ, List.replicate_succ', runOps_append ih, ← shiftIn_afterShifts _ _ k.isLt, ← Fin.coeSucc_eq_succ]
    exact runOps_cons_next (exec_srShift_of_byte (by exact hlive) (State.setOut_out _ _) hphase k.isLt hbyte)

theorem runOps_eight_srShift {s : State} {ser : Serial} {b : SrWord} (hlive : s.Live) (ho : s.out = .serial ser)
    (hphase : ser.phase = .shift) (hcount : ser.count = 0) (hbyte : ser.byte = some b) :
    runOps (List.replicate 8 .srShift) s = .next (s.setOut (.serial { ser with shiftStage := b, count := 8 })) := by
  rw [← afterShifts_eight ser.shiftStage b]
  exact runOps_srShift hlive ho hphase hcount hbyte 8

/-- Settles O46: the shift stage after k shifts, of which eight leave none of its old bits. -/
theorem eightShiftsLoadTheByte : Obligations.EightShiftsLoadTheByte := by
  unfold Obligations.EightShiftsLoadTheByte
  intro s ser b k hlive ho hphase hcount hbyte
  refine ⟨_, runOps_srShift hlive ho hphase hcount hbyte k, fun j => afterShifts_getLsbD ser.shiftStage b, ?_⟩
  rintro rfl
  exact afterShifts_eight ser.shiftStage b

/-! ### The refresh alone, once and again (R176, R185) -/

/-- The serializer and shift register at the end of a refresh that sent the byte `v`. -/
def Serial.sent (v : SrWord) : Serial :=
  { phase := .idle, byte := some v, count := 8, shiftStage := v, store := v, latchLine := false }

/-- The state after a refresh in which no other agent takes a step. -/
def State.refreshed (s : State) : State := s.setOut (.serial (Serial.sent (romSrEntry s.cfg s.digit)))

theorem runOps_refreshOps {s : State} {ser : Serial} (hlive : s.Live) (ho : s.out = .serial ser)
    (hidle : ser.phase = .idle) (hd : s.digit.toNat ≤ 9) : runOps refreshOps s = .next s.refreshed := by
  rw [refreshOps, runOps_cons_next (exec_srSample_of_idle hlive ho hidle hd),
    runOps_append (runOps_eight_srShift (by exact hlive) (State.setOut_out _ _) rfl rfl rfl),
    runOps_cons_next (exec_latchSet_of_full (by exact hlive) (State.setOut_out _ _) rfl rfl),
    runOps_cons_next (exec_latchClear_of_high (by exact hlive) (State.setOut_out _ _) rfl)]
  rfl

theorem mainLoop_succ (n : Nat) : mainLoop (n + 1) = refreshOps ++ mainLoop n := by
  simp [mainLoop, List.replicate_succ]

theorem runOps_mainLoop (n : Nat) {s : State} {ser : Serial} (hlive : s.Live) (ho : s.out = .serial ser)
    (hidle : ser.phase = .idle) (hd : s.digit.toNat ≤ 9) : runOps (mainLoop (n + 1)) s = .next s.refreshed := by
  rw [mainLoop_succ, runOps_append (runOps_refreshOps hlive ho hidle hd)]
  induction n generalizing s ser with
  | zero => rfl
  | succ n ih =>
    rw [mainLoop_succ, runOps_append (runOps_refreshOps (s := s.refreshed) hlive rfl rfl hd)]
    exact ih (s := s.refreshed) hlive rfl rfl hd

/-- With the entry of a digit in the storage stage the display shows exactly that digit's segments (R55, R130). -/
theorem mem_display_of_store {s : State} {ser : Serial} {d : Digit} (hc : s.cfg.WellFormed) (ho : s.out = .serial ser)
    (hstore : ser.store = romSrEntry s.cfg d) (sg : Segment) : sg ∈ s.display ↔ sg ∈ s.cfg.fontAt d := by
  rw [mem_display, drives_of_serial ho, hstore, romSrEntry, orOfBits_map_pos_getLsbD_pos hc.qbitsInjective,
    decide_eq_true_iff]
  exact and_iff_right_of_imp (mem_segments_of_mem_fontAt hc)

/-- Settles O51: each turn ends in the refreshed state of the digit, which is the state the next turn begins in. -/
theorem mainLoopShowsTheDigit : Obligations.MainLoopShowsTheDigit := by
  unfold Obligations.MainLoopShowsTheDigit
  intro n s ser h hlive ho hidle
  exact ⟨s.refreshed, _, runOps_mainLoop n hlive ho hidle h.digit, hlive, rfl, rfl, rfl, rfl,
    mem_display_of_store (s := s.refreshed) h.cfg rfl rfl⟩

/-! ### The refresh with other agents between its steps (R184) -/

section
variable {is js : List Instr} {s t : State}

theorem runOps_append_next_iff :
    runOps (is ++ js) s = .next t ↔ ∃ u, runOps is s = .next u ∧ runOps js u = .next t := by
  induction is generalizing s with
  | nil => simp [runOps]
  | cons i is ih =>
    simp only [List.cons_append, runOps_cons_next_iff, ih]
    constructor
    · rintro ⟨u, hi, v, hv, ht⟩
      exact ⟨v, ⟨u, hi, hv⟩, ht⟩
    · rintro ⟨v, ⟨u, hi, hv⟩, ht⟩
      exact ⟨u, hi, v, hv, ht⟩

/-- What each listed operation keeps, their run keeps. -/
theorem runOps_keeps {P : State → Prop} (hkeep : ∀ i ∈ is, ∀ u v, exec i u = .next v → P u → P v)
    (h : runOps is s = .next t) (hs : P s) : P t := by
  induction is generalizing s with
  | nil =>
    cases h
    exact hs
  | cons i is ih =>
    obtain ⟨u, hexec, hrun⟩ := runOps_cons_next_iff.mp h
    exact ih (fun j hj => hkeep j (.tail i hj)) hrun (hkeep i (.head is) s u hexec hs)

theorem runOps_keeps_inv (h : runOps is s = .next t) (hs : s.Inv) : t.Inv :=
  runOps_keeps (fun _ _ _ _ => exec_keeps_inv) h hs

theorem runOps_keeps_cfg (h : runOps is s = .next t) : t.cfg = s.cfg :=
  runOps_keeps (P := (·.cfg = s.cfg)) (fun _ _ _ _ hexec => (effect_keeps_cfg (effect_of_exec hexec).2).trans) h rfl

/-- Another agent's operation does not touch the serializer and the shift register (R85). -/
theorem exec_keeps_serial {i : Instr} {p : Serial} (hmain : isMainTaskOp i = false) (hreset : i ≠ .reset)
    (h : exec i s = .next t) (ho : s.out = .serial p) : t.out = .serial p := by
  obtain ⟨q, hq, hser⟩ := serialEffect_of_effect (effect_of_exec h).2 ho
  cases hser with
  | kept => exact hq
  | reset => exact absurd rfl hreset
  | sample | shift | latchSet | latchClear => cases hmain

theorem runOps_keeps_serial {p : Serial} (hmain : ∀ i ∈ is, ¬ isMainTaskOp i = true) (hreset : .reset ∉ is)
    (h : runOps is s = .next t) (ho : s.out = .serial p) : t.out = .serial p :=
  runOps_keeps (P := (·.out = .serial p))
    (fun i hi _ _ => exec_keeps_serial (Bool.eq_false_iff.mpr (hmain i hi)) fun hr => hreset (hr ▸ hi)) h ho

/-- The serializer of variant SERIAL holds the byte `v`. -/
def State.HoldsByte (v : SrWord) (s : State) : Prop := ∃ p, s.out = .serial p ∧ p.byte = some v

/-- Between two SR_SAMPLEs the byte sampled stays, though the digit may change (R75, R175). -/
theorem exec_keeps_byte {i : Instr} {v : SrWord} (hsample : i ≠ .srSample) (hreset : i ≠ .reset)
    (h : exec i s = .next t) (hs : s.HoldsByte v) : t.HoldsByte v := by
  obtain ⟨p, hp, hbyte⟩ := hs
  obtain ⟨q, hq, -⟩ := serialEffect_of_effect (effect_of_exec h).2 hp
  refine ⟨q, hq, hbyte ▸ ?_⟩
  by_contra hne
  exact hsample (sample_of_byte_ne h hreset hp hq hne).1

theorem runOps_keeps_byte {v : SrWord} (hsample : .srSample ∉ is) (hreset : .reset ∉ is)
    (h : runOps is s = .next t) (hs : s.HoldsByte v) : t.HoldsByte v :=
  runOps_keeps (fun _ hi _ _ => exec_keeps_byte (fun hi' => hsample (hi' ▸ hi)) fun hi' => hreset (hi' ▸ hi)) h hs

/-- A run whose main task ends with the two latch operations ends in phase IDLE: as LATCH_CLEAR was reached, LATCH_SET
raised no fault, and no other agent moved the phase in between. -/
theorem idle_of_runOps_latches {pre : List Instr} (hmain : is.filter isMainTaskOp = pre ++ [.latchSet, .latchClear])
    (hreset : .reset ∉ is) (h : runOps is s = .next t) : ∃ q, t.out = .serial q ∧ q.phase = .idle := by
  obtain ⟨before, rest, rfl, -, hrest⟩ := List.filter_eq_append_iff.mp hmain
  obtain ⟨others, rest, rfl, -, -, hrest⟩ := List.filter_eq_cons_iff.mp hrest
  obtain ⟨between, after, rfl, hbetween, -, hrest⟩ := List.filter_eq_cons_iff.mp hrest
  have hafter := List.filter_eq_nil_iff.mp hrest
  simp only [List.mem_append, List.mem_cons, not_or] at hreset
  obtain ⟨-, -, -, hresetBetween, -, hresetAfter⟩ := hreset
  simp only [runOps_append_next_iff, runOps_cons_next_iff] at h
  obtain ⟨u₀, -, u₁, -, u₂, hset, u₃, hrunBetween, u₄, hclear, hrunAfter⟩ := h
  have hlive₃ : u₃.Live := live_of_exec_next hclear
  obtain ⟨p, -, -, rfl⟩ := enabled_of_serializerOp_live hset (live_of_runOps_next hrunBetween hlive₃)
  have hout₃ := runOps_keeps_serial hbetween hresetBetween hrunBetween (State.setOut_out _ _)
  obtain rfl : u₃.setOut (.serial p.latched.cleared) = u₄ := by
    simpa [exec_latchClear_of_high hlive₃ hout₃ rfl] using hclear
  exact ⟨_, runOps_keeps_serial hafter hresetAfter hrunAfter (State.setOut_out _ _), rfl⟩

end

/-- Settles O50: the byte sampled stays over the run, the run ends in phase IDLE, and in that phase the invariant has the byte
in the storage stage. -/
theorem refreshShowsTheSampledDigit : Obligations.RefreshShowsTheSampledDigit := by
  unfold Obligations.RefreshShowsTheSampledDigit
  intro s ser h hlive ho hidle
  refine ⟨⟨_, runOps_refreshOps hlive ho hidle h.digit, hlive⟩, fun is t hmain hreset hrun => ?_⟩
  have hsampled := exec_srSample_of_idle hlive ho hidle h.digit
  have hinv : t.Inv := runOps_keeps_inv hrun h
  have hcfg : t.cfg = s.cfg := runOps_keeps_cfg hrun
  rw [runOps_cons_next hsampled] at hrun
  have hsample : .srSample ∉ is := fun hmem => by
    have hmem' := hmain ▸ List.mem_filter.mpr ⟨hmem, rfl⟩
    simp at hmem'
  obtain ⟨q, hq, hbyte⟩ := runOps_keeps_byte hsample hreset hrun ⟨_, State.setOut_out _ _, rfl⟩
  obtain ⟨q', hq', hqidle⟩ := idle_of_runOps_latches hmain hreset hrun
  cases hq.symm.trans hq'
  obtain ⟨hline, ⟨hnone, -⟩ | ⟨b, hb, -, -, hstore, -⟩⟩ :=
    (serial_inv_iff_of_idle hqidle).mp (serial_inv_of_inv hinv hq)
  · cases hnone.symm.trans hbyte
  · cases hb.symm.trans hbyte
    refine ⟨q, hq, hstore, hline, hqidle, fun sg => ?_⟩
    rw [← hcfg]
    exact mem_display_of_store hinv.cfg hq (hcfg ▸ hstore) sg

end Sys2Proof.Machine
end

section
/-! PROOFS. The statements of 43_inputs: the enabled operations and the scheduler's choice, the step of a listed word, the tick,
the button edges and the levels of a button line. -/

namespace Sys2Proof.Machine

/-! ### The enabled operations (R206) -/

theorem mem_environmentOps {i : Instr} : i ∈ environmentOps ↔ i = .edgeInc ∨ i = .edgeDec ∨ i = .tick ∨ i = .reset := by
  simp only [environmentOps, List.mem_cons, List.not_mem_nil, or_false]

theorem mem_handlerOps_iff_flags {s : State} {i : Instr} :
    i ∈ handlerOps s ↔ (i = .isrInc ∧ s.pendInc = true) ∨ (i = .isrDec ∧ s.pendDec = true) := by
  rw [mem_handlerOps]
  constructor
  · rintro ⟨b, hpending, rfl⟩
    cases b with
    | inc => exact .inl ⟨rfl, hpending⟩
    | dec => exact .inr ⟨rfl, hpending⟩
  · rintro (⟨rfl, hpending⟩ | ⟨rfl, hpending⟩)
    · exact ⟨.inc, hpending, rfl⟩
    · exact ⟨.dec, hpending, rfl⟩

/-- In phase SHIFT the count, which is at most 8, tells SR_SHIFT from LATCH_SET. -/
theorem eq_serializerNext_iff {ser : Serial} {i : Instr} :
    i = serializerNext ser ↔
      (i = .srSample ∧ ser.phase = .idle) ∨ (i = .srShift ∧ ser.phase = .shift ∧ ser.count.val < 8) ∨
      (i = .latchSet ∧ ser.phase = .shift ∧ ser.count.val = 8) ∨ (i = .latchClear ∧ ser.phase = .latchHigh) := by
  unfold serializerNext
  split
  · next hidle => simp [hidle]
  · next hshift =>
    split
    · next hlt => simp [hshift, hlt, hlt.ne]
    · next hge =>
      have hfull : ser.count.val = 8 := by omega
      simp [hshift, hfull]
  · next hhigh => simp [hhigh]

/-! ### The scheduler's choice -/

/-- The environment's operations are always enabled, so there is one to choose. -/
theorem enabledOps_length_pos {s : State} (hlive : s.Live) : 0 < (enabledOps s).length :=
  List.length_pos_of_mem (mem_enabledOps.mpr ⟨hlive, .inl (mem_environmentOps.mpr (.inl rfl))⟩)

theorem scheduled_mem_enabledOps {s : State} (hlive : s.Live) : scheduled s ∈ enabledOps s := by
  have hlt : Config.freeChoice s.draws % (enabledOps s).length < (enabledOps s).length :=
    Nat.mod_lt _ (enabledOps_length_pos hlive)
  rw [scheduled, List.getD_eq_getElem _ _ hlt]
  exact List.getElem_mem hlt

theorem step_of_stream_nil {s : State} (h : s.stream = []) : step s = exec (scheduled s) s.tookDraw := by
  simp only [step, fetch_of_nil h]

/-- Settles O8: the list is the environment's operations, the pending handlers and the serializer's next operation; the free
choice is an index into it. -/
theorem schedulerTakesAnEnabledOperation : Obligations.SchedulerTakesAnEnabledOperation := by
  unfold Obligations.SchedulerTakesAnEnabledOperation
  refine ⟨fun s i => ?_, fun s hlive h => ⟨scheduled s, scheduled_mem_enabledOps hlive, step_of_stream_nil h⟩⟩
  simp only [mem_enabledOps, mem_environmentOps, mem_handlerOps_iff_flags, mem_mainTaskOps, eq_serializerNext_iff, or_assoc]

/-- Settles O6: the fetch takes the head word off the stream, and the step executes what it decodes to. -/
theorem stepRunsDecodedInstruction : Obligations.StepRunsDecodedInstruction := by
  unfold Obligations.StepRunsDecodedInstruction
  exact fun _ _ _ _ => step_of_stream_cons

/-! ### The tick (R203) -/

/-- Settles O16: TICK's next state is the ticked one. -/
theorem tickResult : Obligations.TickResult := by
  unfold Obligations.TickResult
  exact ⟨decode_encode .tick, fun _ hlive => execTick_next.mpr ⟨hlive, rfl⟩⟩

/-! ### The edges of a button line (R200, R201, R202) -/

theorem setPending_of_pending {s : State} {b : Button} (h : s.pending b = true) : s.setPending b true = s := by
  cases b <;> rw [← h] <;> rfl

/-- An edge is merged where the flag is already set (R38). -/
theorem exec_edgeOf_of_pending {s : State} {b : Button} (hlive : s.Live) (h : s.pending b = true) :
    exec (edgeOf b) s = .next s := by
  rw [exec_edgeOf hlive, setPending_of_pending h]

/-- Settles O17: EDGE_INC is the increment button's edge. -/
theorem edgeIncResult : Obligations.EdgeIncResult := by
  unfold Obligations.EdgeIncResult
  exact ⟨decode_encode .edgeInc, fun _ hlive => ⟨exec_edgeOf hlive .inc, exec_edgeOf_of_pending (b := .inc) hlive⟩⟩

/-- Settles O18: EDGE_DEC is the decrement button's edge. -/
theorem edgeDecResult : Obligations.EdgeDecResult := by
  unfold Obligations.EdgeDecResult
  exact ⟨decode_encode .edgeDec, fun _ hlive => ⟨exec_edgeOf hlive .dec, exec_edgeOf_of_pending (b := .dec) hlive⟩⟩

theorem lineEvent_of_falling (b : Button) : lineEvent b true false = some (edgeOf b) := rfl

theorem lineEvent_of_not_falling {b : Button} {before after : Bool} (h : ¬ (before = true ∧ after = false)) :
    lineEvent b before after = none :=
  if_neg fun ⟨hbefore, hafter⟩ => h ⟨hbefore, Bool.eq_false_of_not_eq_true hafter⟩

/-- Settles O21: the fall from high to low is the button's edge, and every other pair of levels is no event. -/
theorem onlyFallingEdgesAreEvents : Obligations.OnlyFallingEdgesAreEvents := by
  unfold Obligations.OnlyFallingEdgesAreEvents
  intro b before after
  split
  · next hfalling =>
    obtain ⟨rfl, rfl⟩ := hfalling
    rw [lineEvent_of_falling]
    cases b <;> rfl
  · next hother => exact lineEvent_of_not_falling hother

end Sys2Proof.Machine
end

section
/-! PROOFS. The statements of 60_exceptions: which operations raise which fault, and the quiescence after a stop; and the order of
two enabled handlers. -/

namespace Sys2Proof.Machine

/-! ### The two orders of the handlers (R232) -/

/-- Two accepted events, each with its own button's window, are both accepted in either order. -/
theorem runOps_both_handlers {s : State} {b c : Button} (hne : c ≠ b) (hb : s.acceptsNow b) (hc : s.acceptsNow c)
    (hd : s.digit.toNat ≤ 9) :
    ∃ t, runOps [handlerOf b, handlerOf c] s = .next t ∧ t.Live ∧ t.digit = stepDigit c (stepDigit b s.digit) := by
  have hc' : (s.afterAccept b).acceptsNow c := (afterAccept_acceptsNow_of_ne hne).mpr hc
  have hdigit : (s.afterAccept b).digit = stepDigit b s.digit := afterAccept_digit s b
  obtain ⟨t, hexec, hlive, -, ht⟩ := exec_handlerOf_accepted_completes hc' (hdigit ▸ stepDigit_le hd)
  refine ⟨t, ?_, hlive, hdigit ▸ ht⟩
  rw [runOps_cons_next (exec_handlerOf_accepted hb hd)]
  exact runOps_cons_next hexec

/-- Settles O32: the increment is clamped at 9 only when it comes first. -/
theorem handlerOrderMatters : Obligations.HandlerOrderMatters := by
  unfold Obligations.HandlerOrderMatters
  intro s hinc hdec hdigit
  have hd : s.digit.toNat ≤ 9 := by simp [hdigit]
  obtain ⟨t, hrun, hlive, ht⟩ := runOps_both_handlers (by decide) hinc hdec hd
  obtain ⟨u, hrun', hlive', hu⟩ := runOps_both_handlers (by decide) hdec hinc hd
  rw [hdigit] at ht hu
  exact ⟨⟨t, hrun, hlive, ht⟩, u, hrun', hlive', hu⟩

/-! ### Quiescence -/

/-- Every operation checks first that the state is live. -/
theorem exec_eq_whenLive (i : Instr) (s : State) : ∃ r, exec i s = whenLive s r := by
  cases i <;> exact ⟨_, rfl⟩

/-- So does the refusal of a reserved word, hence every step. -/
theorem step_eq_whenLive (s : State) : ∃ r, step s = whenLive (fetch s).2 r := by
  unfold step
  obtain ⟨i | _, u⟩ := fetch s
  · exact ⟨_, rfl⟩
  · exact exec_eq_whenLive _ u

section
variable (s : State)

theorem fetch_fault : (fetch s).2.fault = s.fault := by
  obtain h | ⟨rest, h⟩ := fetch_keeps s <;> rw [h]
  exact s.tookDraw_fault

theorem fetch_refused : (fetch s).2.refused = s.refused := by
  obtain h | ⟨rest, h⟩ := fetch_keeps s <;> rw [h]
  exact s.tookDraw_refused

end

section
variable {s : State}

theorem exec_of_faulted (h : s.fault ≠ []) (i : Instr) : exec i s = .fault .faulted := by
  obtain ⟨r, hr⟩ := exec_eq_whenLive i s
  rw [hr, whenLive_of_faulted h]

theorem step_of_faulted (h : s.fault ≠ []) : step s = .fault .faulted := by
  obtain ⟨r, hr⟩ := step_eq_whenLive s
  rw [hr, whenLive_of_faulted (fetch_fault s ▸ h)]

theorem exec_of_refused (hf : s.fault = []) (h : s.refused = true) (i : Instr) : exec i s = .fault .refusedBefore := by
  obtain ⟨r, hr⟩ := exec_eq_whenLive i s
  rw [hr, whenLive_of_refused hf h]

theorem step_of_refused (hf : s.fault = []) (h : s.refused = true) : step s = .fault .refusedBefore := by
  obtain ⟨r, hr⟩ := step_eq_whenLive s
  rw [hr, whenLive_of_refused (fetch_fault s ▸ hf) (fetch_refused s ▸ h)]

end

/-- Settles O55: the word's step sets the mark, and every operation and every step looks at the mark first. -/
theorem refusalStops : Obligations.RefusalStops := by
  unfold Obligations.RefusalStops
  exact ⟨fun _ _ _ => step_of_reserved, fun _ hf h => ⟨step_of_refused hf h, exec_of_refused hf h⟩⟩

/-! ### An operation records a fault exactly where it raises one -/

theorem direct_of_variant {s : State} (h : s.variant = .direct) : ∃ seg, s.out = .direct seg := by
  cases ho : s.out with
  | direct seg => exact ⟨seg, rfl⟩
  | serial p => simp [variant_of_serial ho] at h

section
variable {s t : State} {i : Instr} {r : FaultRecord} (hlive : s.Live)
include hlive

/-- Of the effects of an operation only the fault's leaves a state that is not live. -/
theorem live_or_raises_of_effect (h : Effect s i t) : t.Live ∨ ∃ r, Raises s i r ∧ t = { s with fault := [r] } := by
  cases h with
  | fault _ r hr => exact .inr ⟨r, hr, addFault_of_live hlive.1 r⟩
  | edgeInc | edgeDec | discard => exact .inl (setPending_live hlive _ _)
  | acceptSerial | acceptDirect => exact .inl (by simpa [State.Live] using hlive)
  | reset | tick | romGpio | romSr | present | sample | shift | latchSet | latchClear => exact .inl hlive

/-- Each fault an operation raises is its whole effect (R221). -/
theorem exec_of_raises (h : Raises s i r) : exec i s = .next { s with fault := [r] } := by
  rw [← addFault_of_live hlive.1]
  cases h with
  | handler _ b hi hp =>
    rw [hi, exec_handlerOf]
    exact handler_next.mpr ⟨hlive, .inl ⟨hp, rfl⟩⟩
  | refreshRange _ b hi hp ha hv hd =>
    rw [hi, exec_handlerOf]
    exact handler_next.mpr ⟨hlive, .inr (.inr ⟨hp, ha, acceptEvent_next.mpr (.inr (.inr ⟨hv, hd, rfl⟩))⟩)⟩
  | romGpio d hd => exact execRomGpio_next.mpr ⟨hlive, .inr ⟨hd, rfl⟩⟩
  | romSr d hd => exact execRomSr_next.mpr ⟨hlive, .inr ⟨hd, rfl⟩⟩
  | presentRange d hv hd =>
    obtain ⟨seg, ho⟩ := direct_of_variant hv
    exact execPresentDirect_next.mpr ⟨hlive, .inl ⟨seg, ho, .inr ⟨hd, rfl⟩⟩⟩
  | presentVariant d hv => exact execPresentDirect_next.mpr ⟨hlive, .inr ⟨hv, rfl⟩⟩
  | mainVariant _ hi hv =>
    obtain ⟨seg, ho⟩ := direct_of_variant hv
    rw [exec_mainTaskOp_of_direct hi hlive ho, addFault_of_live hlive.1]
  | sampleSeq ser ho hp => exact execSrSample_next.mpr ⟨hlive, .inl ⟨ser, ho, .inr ⟨hp, rfl⟩⟩⟩
  | sampleRange ser ho hp hd => exact execSrSample_next.mpr ⟨hlive, .inl ⟨ser, ho, .inl ⟨hp, .inr ⟨hd, rfl⟩⟩⟩⟩
  | shiftSeq ser ho hp | latchSetSeq ser ho hp => exact serializerOp_next.mpr ⟨hlive, .inr (.inl ⟨ser, ho, hp, rfl⟩)⟩
  | latchClearSeq ser ho hp =>
    exact serializerOp_next.mpr ⟨hlive, .inr (.inl ⟨ser, ho, decide_eq_false hp, rfl⟩)⟩

theorem exec_eq_fault_iff_raises : exec i s = .next { s with fault := [r] } ↔ Raises s i r := by
  refine ⟨fun h => ?_, exec_of_raises hlive⟩
  obtain ⟨hfault, -⟩ | ⟨r', hraises, heq⟩ := live_or_raises_of_effect hlive (effect_of_exec h).2
  · cases hfault
  · cases congrArg State.fault heq
    exact hraises

end

/-- Settles O54: an effect that is not live is a raised fault, and every operation and every step looks at `fault` first. -/
theorem faultRecordsThenStops : Obligations.FaultRecordsThenStops := by
  unfold Obligations.FaultRecordsThenStops
  refine ⟨fun i s t h hstopped => ?_, fun s h => ⟨step_of_faulted h, exec_of_faulted h⟩⟩
  obtain ⟨hlive, heffect⟩ := effect_of_exec h
  obtain ⟨r, -, ht⟩ := (live_or_raises_of_effect hlive heffect).resolve_left hstopped
  exact ⟨r, ht⟩

/-! ### What raises each of the three codes (R222, R223, R224) -/

theorem isMainTaskOp_iff {i : Instr} :
    isMainTaskOp i = true ↔ i = .srSample ∨ i = .srShift ∨ i = .latchSet ∨ i = .latchClear := by
  cases i <;> simp [isMainTaskOp, agentOf]

/-- The count is at most 8, so a SHIFT that is not full can shift. -/
theorem canShift_eq_false_iff {ser : Serial} : ser.canShift = false ↔ ser.phase ≠ .shift ∨ ser.count.val = 8 := by
  rw [Bool.eq_false_iff, ne_eq, canShift_iff, not_and_or]
  have hcount : ser.count.val < 9 := ser.count.isLt
  exact or_congr_right (by omega)

theorem canLatch_eq_false_iff {ser : Serial} : ser.canLatch = false ↔ ¬ (ser.phase = .shift ∧ ser.count.val = 8) := by
  rw [Bool.eq_false_iff, ne_eq, canLatch_iff]

section
variable {s : State} {i : Instr}

/-- The two reads at `digit` itself are inside the ROMs, which leaves the reads at an operand. -/
theorem raises_range_iff {d : Digit} (hd : s.digit.toNat ≤ 9) :
    Raises s i (.range d) ↔
      9 < d.toNat ∧ (i = .romGpio d ∨ i = .romSr d ∨ (i = .presentDirect d ∧ s.variant = .direct)) := by
  constructor
  · intro h
    cases h with
    | refreshRange _ b _ _ _ _ hout => exact absurd (stepDigit_le hd) hout.not_ge
    | sampleRange _ _ _ hout => exact absurd hd hout.not_ge
    | romGpio _ hout => exact ⟨hout, .inl rfl⟩
    | romSr _ hout => exact ⟨hout, .inr (.inl rfl)⟩
    | presentRange _ hv hout => exact ⟨hout, .inr (.inr ⟨rfl, hv⟩)⟩
  · rintro ⟨hout, rfl | rfl | ⟨rfl, hv⟩⟩
    · exact .romGpio d hout
    · exact .romSr d hout
    · exact .presentRange d hv hout

theorem raises_variant_iff {w : Word} :
    Raises s i (.variant w) ↔
      w = encode i ∧ ((s.variant = .serial ∧ ∃ d, i = .presentDirect d) ∨
        (s.variant = .direct ∧ (i = .srSample ∨ i = .srShift ∨ i = .latchSet ∨ i = .latchClear))) := by
  rw [← isMainTaskOp_iff]
  constructor
  · intro h
    cases h with
    | presentVariant d hv => exact ⟨rfl, .inl ⟨hv, d, rfl⟩⟩
    | mainVariant _ hi hv => exact ⟨rfl, .inr ⟨hv, hi⟩⟩
  · rintro ⟨rfl, ⟨hv, d, rfl⟩ | ⟨hv, hi⟩⟩
    · exact .presentVariant d hv
    · exact .mainVariant i hi hv

/-- A handler raises F_SEQ without its flag, a serializer operation outside the phase and count it requires. -/
theorem raises_code_three_iff {r : FaultRecord} :
    (r.code = 3 ∧ Raises s i r) ↔
      (i = .isrInc ∧ s.pendInc = false ∧ r = .seqHandler (encode .isrInc) false) ∨
      (i = .isrDec ∧ s.pendDec = false ∧ r = .seqHandler (encode .isrDec) false) ∨
      ∃ ser, s.out = .serial ser ∧
        ((i = .srSample ∧ ser.phase ≠ .idle ∧ r = .seqSerializer (encode .srSample) ser.phase ser.count) ∨
         (i = .srShift ∧ ser.canShift = false ∧ r = .seqSerializer (encode .srShift) ser.phase ser.count) ∨
         (i = .latchSet ∧ ser.canLatch = false ∧ r = .seqSerializer (encode .latchSet) ser.phase ser.count) ∨
         (i = .latchClear ∧ ser.phase ≠ .latchHigh ∧ r = .seqSerializer (encode .latchClear) ser.phase ser.count)) := by
  constructor
  · rintro ⟨hcode, h⟩
    cases h with
    | handler _ b hi hp =>
      cases b with
      | inc => exact .inl ⟨hi, hp, hi ▸ rfl⟩
      | dec => exact .inr (.inl ⟨hi, hp, hi ▸ rfl⟩)
    | sampleSeq ser ho hp => exact .inr (.inr ⟨ser, ho, .inl ⟨rfl, hp, rfl⟩⟩)
    | shiftSeq ser ho hp => exact .inr (.inr ⟨ser, ho, .inr (.inl ⟨rfl, hp, rfl⟩)⟩)
    | latchSetSeq ser ho hp => exact .inr (.inr ⟨ser, ho, .inr (.inr (.inl ⟨rfl, hp, rfl⟩))⟩)
    | latchClearSeq ser ho hp => exact .inr (.inr ⟨ser, ho, .inr (.inr (.inr ⟨rfl, hp, rfl⟩))⟩)
    | refreshRange | romGpio | romSr | presentRange | presentVariant | mainVariant | sampleRange => cases hcode
  · rintro (⟨rfl, hp, rfl⟩ | ⟨rfl, hp, rfl⟩ |
      ⟨ser, ho, ⟨rfl, hp, rfl⟩ | ⟨rfl, hp, rfl⟩ | ⟨rfl, hp, rfl⟩ | ⟨rfl, hp, rfl⟩⟩)
    · exact ⟨rfl, .handler _ .inc rfl hp⟩
    · exact ⟨rfl, .handler _ .dec rfl hp⟩
    · exact ⟨rfl, .sampleSeq ser ho hp⟩
    · exact ⟨rfl, .shiftSeq ser ho hp⟩
    · exact ⟨rfl, .latchSetSeq ser ho hp⟩
    · exact ⟨rfl, .latchClearSeq ser ho hp⟩

end

/-- Settles O56: a record of F_RANGE is a ROM read at an operand outside 0..9. -/
theorem rangeFaultExactly : Obligations.RangeFaultExactly := by
  unfold Obligations.RangeFaultExactly
  exact fun i s d hlive hd => ⟨rfl, (exec_eq_fault_iff_raises hlive).trans (raises_range_iff hd)⟩

/-- Settles O57: a record of F_VARIANT is an operation of the other driver. -/
theorem variantFaultExactly : Obligations.VariantFaultExactly := by
  unfold Obligations.VariantFaultExactly
  exact fun i s w hlive => ⟨rfl, (exec_eq_fault_iff_raises hlive).trans raises_variant_iff⟩

/-- Settles O58: a record of F_SEQ is a handler without its flag or a serializer operation out of its phase. -/
theorem sequenceFaultExactly : Obligations.SequenceFaultExactly := by
  unfold Obligations.SequenceFaultExactly
  intro i s r hlive
  rw [exec_eq_fault_iff_raises hlive, raises_code_three_iff]
  simp only [canShift_eq_false_iff, canLatch_eq_false_iff]
  rfl

end Sys2Proof.Machine
end

section
/-! PROOFS. The statements of 70_reset_and_hazards: the first state of a run and the invariant, and the whole effect of RESET. -/

namespace Sys2Proof.Machine

/-! ### The first state of a run meets the invariant (R261) -/

/-- The phase machine starts idle with no byte held, which the invariant allows; no drawn level is in question. -/
theorem powerOn_out_inv (v : Variant) (c : Config) : (OutputStage.powerOn v).Inv c := by
  cases v with
  | direct => exact trivial
  | serial =>
    rw [OutputStage.powerOn, OutputStage.Inv, serial_inv_iff_of_idle rfl]
    exact ⟨rfl, .inl ⟨rfl, rfl⟩⟩

theorem powerOn_inv (v : Variant) {c : Config} (hc : c.WellFormed) : (State.powerOn v c).Inv where
  cfg := hc
  digit := Nat.zero_le 9
  nowMs := Nat.two_pow_pos _
  lastInc := Nat.two_pow_pos _
  lastDec := Nat.two_pow_pos _
  out := powerOn_out_inv v c
  oneFault := Nat.zero_le 1
  oneStop := .inl rfl

/-- Settles O11: power-on meets the invariant, and State.reset is power-on with the reference parameters, which are admissible. -/
theorem powerOnMeetsInvariant : Obligations.PowerOnMeetsInvariant := by
  unfold Obligations.PowerOnMeetsInvariant
  exact ⟨fun v _ => powerOn_inv v, powerOn_inv .serial referenceConfig_wellFormed⟩

/-! ### RESET (R260) -/

/-- The write leaves the port's bits outside the mask, for a word that lies inside it. -/
theorem driveLines_and_not_segLineMask {c : Config} {seg m : PortWord} (h : m &&& ~~~ segLineMask c = 0) :
    driveLines c seg m &&& ~~~ segLineMask c = seg &&& ~~~ segLineMask c := by
  rw [driveLines, BitVec.and_or_distrib_right, BitVec.and_assoc, BitVec.and_self, h]
  exact BitVec.or_zero

theorem afterReset_out_of_direct {s : State} {seg : PortWord} (ho : s.out = .direct seg) :
    ∃ seg', s.afterReset.out = .direct seg' ∧ seg' &&& ~~~ segLineMask s.cfg = seg &&& ~~~ segLineMask s.cfg := by
  rw [State.afterReset_out, ho]
  refine ⟨_, rfl, driveLines_and_not_segLineMask ?_⟩
  rw [BitVec.and_assoc, BitVec.and_not_self]
  exact BitVec.and_zero

theorem afterReset_out_of_serial {s : State} {ser : Serial} (ho : s.out = .serial ser) :
    ∃ sh st, s.afterReset.out = .serial
      { phase := .idle, byte := none, count := 0, shiftStage := sh, store := st, latchLine := false } := by
  rw [State.afterReset_out, ho]
  exact ⟨_, _, rfl⟩

/-- Settles O15: RESET's next state is the reset one, of whose output stage only the drawn levels are open. -/
theorem resetResult : Obligations.ResetResult := by
  unfold Obligations.ResetResult
  refine ⟨decode_encode .reset, fun s hlive => ?_, fun s t hstopped h => hstopped (live_of_exec_next h)⟩
  exact ⟨s.afterReset, execReset_next.mpr ⟨hlive, rfl⟩, rfl, rfl, rfl, rfl, rfl, rfl, rfl, hlive.1, hlive.2, rfl, rfl,
    fun _ => afterReset_out_of_direct, fun _ => afterReset_out_of_serial⟩

end Sys2Proof.Machine
end
